-- ==== Sys2Proof/Word.lean ====
section
/-! DEFINITION. The word types of the core (spec/00_scope.md R7, R10): every value is an unsigned bit
vector of a stated width, bit 0 the least significant. -/

namespace Sys2Proof

/-- A host-visible register, a command word, an SPN16 block, key or subkey: `REGW` = `BLKW_S` = `KEYW_S` =
`SKW_S` = 16 (R7). -/
abbrev Word := BitVec 16

/-- A FEISTEL8 block or subkey, or an SPN16 key-schedule word: `BLKW_F` = `SKW_F` = `WORDW_S` = 8 (R7). -/
abbrev Byte := BitVec 8

/-- An SPN16 substitution unit or a FEISTEL8 half block: `NIBW` = `HALFW_F` = 4 (R7). -/
abbrev Nibble := BitVec 4

/-- FEISTEL8 Key Material: `KEYW_F` = 10 (R7). -/
abbrev Key10 := BitVec 10

/-- One half of the FEISTEL8 Key Material (spec/41_keyschedule.md R131). -/
abbrev Half5 := BitVec 5

/-- An index of the register space: the 4-bit `addr` of the register port (spec/20_memory.md R51). -/
abbrev RegIndex := BitVec 4

/-- The number of subkey slots, `NSK` = 8 (R7). -/
abbrev nSk : Nat := 8

end Sys2Proof
end

