-- ==== Sys2Proof/Config.lean ====
section
/-! DEFINITION. What is fixed when the core is built (spec/00_scope.md R8), as one record of plain data, and the
free values of the spec (spec/93_implementation_defined.md U1, U2; spec/10_state.md R30) as constants with no body.
The reference record is in Machine/Reference.lean, its checks (spec/40_datapath.md R111) in WellFormed.lean. -/

namespace Sys2Proof

/-- The configuration record of R8. Positions in permutation tables are 1-indexed, as in the spec; S-box rows and
columns, and the entries of `sbox`, are 0-indexed (spec/40_datapath.md R104, R105). -/
structure Configuration where
  /-- `NR_F`: rounds of FEISTEL8. -/
  nrF : Nat
  /-- `NR_S`: rounds of SPN16. -/
  nrS : Nat
  /-- `P10`: key permutation, 10 to 10. -/
  p10 : List Nat
  /-- `P8`: compression permutation, 10 to 8. -/
  p8 : List Nat
  /-- `SHIFT`: one rotation amount per FEISTEL8 round; the head is `SHIFT[1]`. -/
  shift : List Nat
  /-- `IP`: initial permutation, 8 to 8. -/
  ip : List Nat
  /-- `FP`: final permutation, 8 to 8. -/
  fp : List Nat
  /-- `EP`: expansion permutation, 4 to 8. -/
  ep : List Nat
  /-- `P4`: output permutation of F, 4 to 4. -/
  p4 : List Nat
  /-- `S0`: rows of the first 4x4 table of 2-bit values. -/
  s0 : List (List Nat)
  /-- `S1`: rows of the second 4x4 table of 2-bit values. -/
  s1 : List (List Nat)
  /-- `SBOX`: 16 nibbles. -/
  sbox : List Nat
  /-- `NPERM`: nibble positions. -/
  nperm : List Nat
  /-- `RCON`: one byte per SPN16 round; the head is `RCON[1]`. -/
  rcon : List Nat
  /-- `GROT`: the rotation amount in g. -/
  grot : Nat
  /-- `KSW_ALLG`: every new key word goes through g (true), or only the even ones (false). -/
  kswAllG : Bool
  deriving DecidableEq, Repr

/-- The stages of a composite command, as the source names its pipeline states (spec/10_state.md R30,
spec/44_pipeline.md R194). -/
inductive Stage where
  | initial
  | round (r : Fin 8)
  | swapShift
  | final
  deriving DecidableEq, Repr, Inhabited

/-- What the round sequencer holds besides `SEQ` and the command (spec/10_state.md R30): the stage of a composite
command and the key-schedule temporaries, the halves L and R and the words w[0..15] (w[i] is used for i at most
2 * `NR_S` + 1, and `NR_S` is at most 7). -/
structure SeqTemps where
  stage : Stage
  l     : Half5
  r     : Half5
  words : Vector Byte 16
  deriving DecidableEq, Repr, Inhabited

/-- FREE VALUE (log 3, log 4): the n-th 16-bit value drawn with no law, for a slot of `SK` at a reset step (U1) or a
read of `W`, `DOUT` or `SK` while busy (U2). It has no body: nothing can be proved about what it is. -/
opaque Config.freeWord : Nat → Word

/-- FREE VALUE (log 6): what the stage and the temporaries hold at a command boundary, where the spec gives them no
defined value (spec/10_state.md R30). It has no body. -/
opaque Config.freeTemps : Nat → SeqTemps

end Sys2Proof
end

