-- ==== Sys2Proof/Syntax.lean ====
section
/-! DEFINITION. The two variants and the fifteen commands (spec/30_encoding.md R73), one constructor per row of
spec/opcode_table.json. -/

namespace Sys2Proof

/-- The two cipher variants (spec/00_scope.md R2). -/
inductive Variant where
  /-- S-DES style Feistel cipher, `MODE.VAR` = 0. -/
  | feistel8
  /-- S-AES style substitution-permutation cipher, `MODE.VAR` = 1. -/
  | spn16
  deriving DecidableEq, Repr

/-- The commands of the core (R73). The only operand is the subkey index `K` of `FK` and `ARK`; indices are unbounded
non-negative integers (spec/00_scope.md R11), and WellFormed.lean bounds what the field can hold. -/
inductive Instr where
  | nop
  | derive
  | encrypt
  | decrypt
  | loadw
  | storew
  | ip
  | fp
  | fk (k : Nat)
  | swap
  | ark (k : Nat)
  | nsub
  | insub
  | shuf
  | ishuf
  deriving DecidableEq, Repr

namespace Instr

/-- Marked FEISTEL8 in the opcode map (R73, R74). -/
def feistelOnly : Instr → Bool
  | .ip | .fp | .fk _ | .swap => true
  | .nop | .derive | .encrypt | .decrypt | .loadw | .storew => false
  | .ark _ | .nsub | .insub | .shuf | .ishuf => false

/-- Marked SPN16 in the opcode map (R73, R74). -/
def spnOnly : Instr → Bool
  | .ark _ | .nsub | .insub | .shuf | .ishuf => true
  | .nop | .derive | .encrypt | .decrypt | .loadw | .storew => false
  | .ip | .fp | .fk _ | .swap => false

end Instr

end Sys2Proof
end

