-- ==== Sys2Proof/WellFormed.lean ====
section
/-! DEFINITION. Well-formedness of an instruction (what the 3-bit `K` field can hold, spec/30_encoding.md R72, R78)
and of a configuration (the thirteen checks of spec/40_datapath.md R111). -/

namespace Sys2Proof

/-- An instruction is well formed when its subkey index fits the `K` field, 0..7 (R72; an assembler rejects
k > 7, R78). -/
def Instr.wellFormed : Instr → Bool
  | .fk k | .ark k => decide (k ≤ 7)
  | .nop | .derive | .encrypt | .decrypt | .loadw | .storew => true
  | .ip | .fp | .swap | .nsub | .insub | .shuf | .ishuf => true

namespace Configuration

/-- `l` has `len` entries, each a position in 1..`n`. -/
def isTable (len n : Nat) (l : List Nat) : Bool :=
  l.length == len && l.all fun p => decide (1 ≤ p ∧ p ≤ n)

/-- `l` has `n` entries and holds every position 1..`n`: it is a bijection on 1..`n`. -/
def isBijection (n : Nat) (l : List Nat) : Bool :=
  l.length == n && (List.range n).all fun i => l.contains (i + 1)

/-- A 4x4 table whose entries are 0..3 (check 9). -/
def is4x4 (t : List (List Nat)) : Bool :=
  t.length == 4 && t.all fun row => row.length == 4 && row.all fun x => decide (x ≤ 3)

/-- Check 6: `fp` undoes `ip`: `fp` at position `ip[i]` is i. -/
def undoes (n : Nat) (ip fp : List Nat) : Bool :=
  fp.length == n && (List.range n).all fun i => fp.getD (ip.getD i 0 - 1) 0 == i + 1

def check1 (c : Configuration) : Bool := decide (1 ≤ c.nrF ∧ c.nrF ≤ 7 ∧ 1 ≤ c.nrS ∧ c.nrS ≤ 7)
def check2 (c : Configuration) : Bool := isBijection 10 c.p10
def check3 (c : Configuration) : Bool := isTable 8 10 c.p8
def check4 (c : Configuration) : Bool := c.shift.length == c.nrF
def check5 (c : Configuration) : Bool := isBijection 8 c.ip
def check6 (c : Configuration) : Bool := undoes 8 c.ip c.fp
def check7 (c : Configuration) : Bool := isTable 8 4 c.ep
def check8 (c : Configuration) : Bool := isTable 4 4 c.p4
def check9 (c : Configuration) : Bool := is4x4 c.s0 && is4x4 c.s1
def check10 (c : Configuration) : Bool :=
  c.sbox.length == 16 && c.sbox.all (fun x => decide (x ≤ 15)) && (List.range 16).all fun y => c.sbox.contains y
def check11 (c : Configuration) : Bool := isBijection 4 c.nperm
def check12 (c : Configuration) : Bool := c.rcon.length == c.nrS && c.rcon.all fun x => decide (x ≤ 255)
def check13 (c : Configuration) : Bool := decide (c.grot ≤ 7)

/-- A configuration is well formed exactly when every check of R111 holds. -/
def wellFormed (c : Configuration) : Bool :=
  c.check1 && (c.check2 && (c.check3 && (c.check4 && (c.check5 && (c.check6 && (c.check7 && (c.check8 && (c.check9 &&
    (c.check10 && (c.check11 && (c.check12 && c.check13)))))))))))

end Configuration

end Sys2Proof
end

