-- ==== Sys2Proof/Decode.lean ====
section
/-! DEFINITION. The command word (spec/30_encoding.md R70 to R77): its fields, the total decoder with its rejections by
name, the encoder written from the same map, and the opcode table's match and mask. -/

namespace Sys2Proof

/-- Bits 3:0, the operation (R71). -/
def opField (v : Word) : BitVec 4 := v.extractLsb' 0 4

/-- Bits 6:4, the subkey index operand (R71). -/
def kField (v : Word) : BitVec 3 := v.extractLsb' 4 3

/-- Bits 15:7, reserved, must be 0 (R71). -/
def resField (v : Word) : BitVec 9 := v.extractLsb' 7 9

/-- Why a word is illegal (R75). The core reports every one of them as `ERR_ILLEGAL` (R222). -/
inductive IllegalWord where
  /-- `RES` is not 0. -/
  | reservedBits
  /-- `OP` = 0xF. -/
  | reservedOp
  /-- `K` is not 0 on an operation without an operand. -/
  | unexpectedK
  deriving DecidableEq, Repr

/-- The operations that take no operand, by `OP` (R73); none for `FK`, `ARK` and the reserved 0xF. -/
def plainOp (op : BitVec 4) : Option Instr :=
  match op.toNat with
  | 0x0 => some .nop
  | 0x1 => some .derive
  | 0x2 => some .encrypt
  | 0x3 => some .decrypt
  | 0x4 => some .loadw
  | 0x5 => some .storew
  | 0x6 => some .ip
  | 0x7 => some .fp
  | 0x9 => some .swap
  | 0xB => some .nsub
  | 0xC => some .insub
  | 0xD => some .shuf
  | 0xE => some .ishuf
  | _ => none

/-- `decode` of R76: a total function from a 16-bit word to a command or Illegal. -/
def decode (v : Word) : Except IllegalWord Instr :=
  if resField v ≠ 0 then .error .reservedBits
  else if opField v = 0xF then .error .reservedOp
  else if opField v = 0x8 then .ok (.fk (kField v).toNat)
  else if opField v = 0xA then .ok (.ark (kField v).toNat)
  else if kField v ≠ 0 then .error .unexpectedK
  else
    match plainOp (opField v) with
    | some i => .ok i
    | none => .error .reservedOp

/-- The word with `RES` = 0 and the given `K` and `OP` (R71). -/
def commandWord (k : Nat) (op : BitVec 4) : Word := 0#9 ++ BitVec.ofNat 3 k ++ op

/-- The word of an instruction (R77). -/
def encode : Instr → Word
  | .nop     => commandWord 0 0x0
  | .derive  => commandWord 0 0x1
  | .encrypt => commandWord 0 0x2
  | .decrypt => commandWord 0 0x3
  | .loadw   => commandWord 0 0x4
  | .storew  => commandWord 0 0x5
  | .ip      => commandWord 0 0x6
  | .fp      => commandWord 0 0x7
  | .fk k    => commandWord k 0x8
  | .swap    => commandWord 0 0x9
  | .ark k   => commandWord k 0xA
  | .nsub    => commandWord 0 0xB
  | .insub   => commandWord 0 0xC
  | .shuf    => commandWord 0 0xD
  | .ishuf   => commandWord 0 0xE

/-- A row of the opcode table: a word `v` is the command when `v &&& mask = pattern` (R77). -/
structure OpcodeRow where
  pattern : Word
  mask    : Word
  deriving DecidableEq, Repr

/-- The opcode table's row of each instruction, as R77 lists it. -/
def Instr.row : Instr → OpcodeRow
  | .nop     => ⟨0x0000, 0xFFFF⟩
  | .derive  => ⟨0x0001, 0xFFFF⟩
  | .encrypt => ⟨0x0002, 0xFFFF⟩
  | .decrypt => ⟨0x0003, 0xFFFF⟩
  | .loadw   => ⟨0x0004, 0xFFFF⟩
  | .storew  => ⟨0x0005, 0xFFFF⟩
  | .ip      => ⟨0x0006, 0xFFFF⟩
  | .fp      => ⟨0x0007, 0xFFFF⟩
  | .fk _    => ⟨0x0008, 0xFF8F⟩
  | .swap    => ⟨0x0009, 0xFFFF⟩
  | .ark _   => ⟨0x000A, 0xFF8F⟩
  | .nsub    => ⟨0x000B, 0xFFFF⟩
  | .insub   => ⟨0x000C, 0xFFFF⟩
  | .shuf    => ⟨0x000D, 0xFFFF⟩
  | .ishuf   => ⟨0x000E, 0xFFFF⟩

/-- A row covers a word (R77). -/
def OpcodeRow.covers (r : OpcodeRow) (v : Word) : Bool := v &&& r.mask == r.pattern

/-- The 15 rows of the opcode table, in its order (R77). -/
def opcodeTable : List OpcodeRow :=
  [Instr.nop, .derive, .encrypt, .decrypt, .loadw, .storew, .ip, .fp, .fk 0, .swap, .ark 0, .nsub, .insub, .shuf,
    .ishuf].map Instr.row

/-- The instruction the decoder reads from an instruction whose bits are `w`, numbered as spec/opcode_table.json
numbers them: one 16-bit word, bits above `nbits` zero. A command is always one 16-bit word (R70), so a number
wider than that is no command. -/
def decodeTableWord (nbits w : Nat) : Option Instr :=
  if w % 2 ^ nbits < 2 ^ 16 then (decode (BitVec.ofNat 16 (w % 2 ^ nbits))).toOption else none

end Sys2Proof
end

