-- ==== Sys2Proof/Machine/Reference.lean ====
section
/-! DEFINITION. The reference configuration (spec/40_datapath.md R110): the tables of the published S-DES and S-AES
ciphers, the two round counts and `KSW_ALLG`. `ISBOX`, `NPERM_INV` and `IP_INV` are computed (R107), not listed. -/

namespace Sys2Proof

/-- The reference values of R110. The source gives none of the tables: they are values the spec supplies from general
knowledge (spec/93_implementation_defined.md G1 to G10), and only `State.reset` uses them (log 1). -/
def Configuration.reference : Configuration where
  nrF := 2
  nrS := 2
  p10 := [3, 5, 2, 7, 4, 10, 1, 9, 8, 6]
  p8 := [6, 3, 7, 4, 8, 5, 10, 9]
  shift := [1, 2]
  ip := [2, 6, 3, 1, 4, 8, 5, 7]
  fp := [4, 1, 3, 5, 7, 2, 8, 6]
  ep := [4, 1, 2, 3, 2, 3, 4, 1]
  p4 := [2, 4, 3, 1]
  s0 := [[1, 0, 3, 2], [3, 2, 1, 0], [0, 2, 1, 3], [3, 1, 3, 2]]
  s1 := [[0, 1, 2, 3], [2, 0, 1, 3], [3, 0, 1, 0], [2, 1, 0, 3]]
  sbox := [0x9, 0x4, 0xA, 0xB, 0xD, 0x1, 0x8, 0x5, 0x6, 0x2, 0x0, 0x3, 0xC, 0xE, 0xF, 0x7]
  nperm := [1, 4, 3, 2]
  rcon := [0x80, 0x30]
  grot := 4
  kswAllG := true

end Sys2Proof
end

