-- ==== Sys2Proof/Machine/State.lean ====
section
/-! DEFINITION. The state of the core (spec/10_state.md R20 to R33, spec/70_reset_and_hazards.md R251) as plain data, the
reasons a step can stop, and the state right after reset. -/

namespace Sys2Proof.Machine

/-- The fields of `STATUS` (R22). Bits 15:7 are reserved and have no storage. -/
structure Status where
  /-- Bit 0: a command is accepted and has not ended. -/
  busy : Bool
  /-- Bit 1: the most recent command has ended. -/
  done : Bool
  /-- Bit 2: `SK` holds a Subkey Set derived under the current `MODE.VAR` (R26). -/
  skv  : Bool
  /-- Bit 3: sticky, a host write was dropped while busy. -/
  ovr  : Bool
  /-- Bits 6:4: the error code of the most recent command (spec/60_exceptions.md R220). -/
  err  : BitVec 3
  deriving DecidableEq, Repr

/-- The phase of the round sequencer, `SEQ` (R30). -/
inductive SeqPhase where
  | idle
  | run
  deriving DecidableEq, Repr

/-- What happens next at the core's ports: an access of the host, a change of the reset line, or the sequencer's turn
to take its step (spec/20_memory.md R51, R62). The list of them in State is one interleaving (log 7). -/
inductive Input where
  /-- `MemRead(i, 16)`. -/
  | read (i : RegIndex)
  /-- `MemWrite(i, 16, v)`. -/
  | write (i : RegIndex) (v : Word)
  /-- The reset line is driven to this level at a rising edge of `clk` (log 8). -/
  | rst (level : Bool)
  /-- The sequencer's turn. -/
  | sequencer
  deriving DecidableEq, Repr

/-- Everything the spec gives the machine, and three fields of the model's own (`cfg`, `inputs`, `draws`). -/
structure State where
  /-- The configuration the core was built with (spec/00_scope.md R8). The model's field: no step changes it (log 1). -/
  cfg    : Configuration
  /-- `CMD`, index 0 (R21). -/
  cmd    : Word
  /-- `STATUS`, index 1 (R22). -/
  status : Status
  /-- `MODE.VAR`, index 2 (R24); bits 15:1 of `MODE` have no storage. -/
  var    : Variant
  /-- `KEY`, index 3 (R25). -/
  key    : Word
  /-- `DIN`, index 4 (R28). -/
  din    : Word
  /-- `DOUT`, index 5 (R29). -/
  dout   : Word
  /-- `W`, index 6 (R29). -/
  w      : Word
  /-- `SK[0..7]`, indices 8 to 15 (R27). -/
  sk     : Vector Word 8
  /-- `SEQ` (R30). -/
  seq    : SeqPhase
  /-- The stage and the key-schedule temporaries (R30); no rule reads them across commands (log 6). -/
  temps  : SeqTemps
  /-- The level on the port `rst` (spec/20_memory.md R51; log 8). -/
  rst    : Bool
  /-- The answers given on the port `rdata`, the newest first (spec/20_memory.md R51, R53; log 9). -/
  rdata  : List Word
  /-- The host's accesses to come and the sequencer's turns among them. The model's field (log 7). -/
  inputs : List Input
  /-- How many free values have been drawn. The model's field (log 5). -/
  draws  : Nat
  deriving DecidableEq, Repr

/-- Why the machine would stop with a fault. -/
inductive Fault where
  /-- The source's InternalInvariantViolation (spec/93_implementation_defined.md, section 2: the right treatment would
  be stuck, and no rule reaches it). Nothing raises it: widths and checked tables rule it out (spec/60_exceptions.md
  R227; log 19). Safe. -/
  | internalInvariantViolation
  deriving DecidableEq, Repr

/-- Why a step has no meaning. -/
inductive Refusal where
  /-- An instruction that has no meaning yet. Raised by exec's arms only; in this model by none. Safe. -/
  | notModelled (mnemonic : String)
  /-- The configuration fails a check of spec/40_datapath.md R111, so no machine exists (spec/60_exceptions.md R226; log
  11). Raised by `step`, before anything else. Safe. -/
  | illFormedConfiguration
  deriving DecidableEq, Repr

/-- `STATUS` after reset: every field 0 (R251). -/
def Status.reset : Status := ⟨false, false, false, false, 0⟩

/-- The state right after reset (spec/70_reset_and_hazards.md R250, R251). The spec leaves `SK`, the stage and the
temporaries open there: the values here are the model's (DESIGN CHOICE, log 2, log 6). The configuration is the
reference one of spec/40_datapath.md R110 (log 1); no access is waiting and none has been answered (log 7, log 9). -/
def State.reset : State where
  cfg := Configuration.reference
  cmd := 0x0000
  status := Status.reset
  var := .feistel8
  key := 0x0000
  din := 0x0000
  dout := 0x0000
  w := 0x0000
  sk := #v[0x0000, 0x0000, 0x0000, 0x0000, 0x0000, 0x0000, 0x0000, 0x0000]
  seq := .idle
  temps := ⟨.initial, 0, 0, #v[0, 0, 0, 0, 0, 0, 0, 0, 0, 0, 0, 0, 0, 0, 0, 0]⟩
  rst := false
  rdata := []
  inputs := []
  draws := 0

end Sys2Proof.Machine
end

