-- ==== Sys2Proof/Machine/Operands.lean ====
section
/-! DEFINITION. Operand forms and the combinational datapath: bit sequences and slices (spec/00_scope.md R10, R11), the
primitives of spec/40_datapath.md R100 to R107, and how a command reads its operands from `W`, `DIN`, `KEY` and `SK`
(spec/20_memory.md R59, spec/30_encoding.md R72). -/

namespace Sys2Proof.Machine

/-- Sequence position `p` (1-indexed, the first bit is the most significant) of an n-bit value (R10). -/
def seqBit {n : Nat} (v : BitVec n) (p : Nat) : Bool := v.getLsbD (n - p)

/-- The value whose bit sequence is `bits`, first bit most significant (R10). -/
def ofBitseq (len : Nat) (bits : List Bool) : BitVec len :=
  BitVec.ofNat len (bits.foldl (fun acc b => 2 * acc + b.toNat) 0)

/-- `permute(v, n, pat)` (R100): position i of the result holds the input bit at position `pat[i]`. `len` is the number
of entries of `pat`. -/
def permute {n : Nat} (v : BitVec n) (len : Nat) (pat : List Nat) : BitVec len :=
  ofBitseq len (pat.map (seqBit v))

/-- `rotl(v, n, s)` (R101): cyclic left rotation by s mod n. -/
def rotl {n : Nat} (v : BitVec n) (s : Nat) : BitVec n := v.rotateLeft (s % n)

/-- The first (most significant) half of a value, `hi` of `split` (R102). -/
def splitHi {h : Nat} (v : BitVec (h + h)) : BitVec h := v.extractLsb' h h

/-- The second half of a value, `lo` of `split` (R102). -/
def splitLo {h : Nat} (v : BitVec (h + h)) : BitVec h := v.extractLsb' 0 h

/-- `sbox2(S, a)` (R104): row from the outer bits, column from the inner bits of the group. -/
def sbox2 (table : List (List Nat)) (a : Nibble) : BitVec 2 :=
  let row := 2 * (a.getLsbD 3).toNat + (a.getLsbD 0).toNat
  let col := 2 * (a.getLsbD 2).toNat + (a.getLsbD 1).toNat
  BitVec.ofNat 2 ((table.getD row []).getD col 0)

/-- `sub4(T, x)` (R105). -/
def sub4 (table : List Nat) (x : Nibble) : Nibble := BitVec.ofNat 4 (table.getD x.toNat 0)

/-- `nib(v, j)` (R106): nibble position j = 1..4, position 1 the most significant (spec/20_memory.md R59). -/
def nib (v : Word) (j : Nat) : Nibble := v.extractLsb' (16 - 4 * j) 4

/-- `mknib(n1, n2, n3, n4)` (R106). -/
def mknib (n1 n2 n3 n4 : Nibble) : Word := n1 ++ n2 ++ n3 ++ n4

/-- `subword(T, w)` (R106): both nibbles of a key word through `sub4`. -/
def subword (table : List Nat) (w : Byte) : Byte :=
  sub4 table (splitHi (h := 4) w) ++ sub4 table (splitLo (h := 4) w)

/-- `ISBOX` (R107): `ISBOX[SBOX[x]] = x`. -/
def inverseSbox (sbox : List Nat) : List Nat := (List.range 16).map fun y => sbox.idxOf y

/-- `NPERM_INV` and `IP_INV` (R107): the list q of n positions with `q[pat[i]] = i`. -/
def inversePositions (n : Nat) (pat : List Nat) : List Nat := (List.range n).map fun i => pat.idxOf (i + 1) + 1

/-- Every nibble of a block through one table (spec/43_spn_round.md R171, R172). -/
def subNibbles (table : List Nat) (v : Word) : Word :=
  mknib (sub4 table (nib v 1)) (sub4 table (nib v 2)) (sub4 table (nib v 3)) (sub4 table (nib v 4))

/-- Nibble position j of the result takes nibble position `perm[j]` (spec/43_spn_round.md R173, R174). -/
def shuffleNibbles (perm : List Nat) (v : Word) : Word :=
  mknib (nib v (perm.getD 0 0)) (nib v (perm.getD 1 0)) (nib v (perm.getD 2 0)) (nib v (perm.getD 3 0))

/-- `zext_16` of an 8-bit value (spec/00_scope.md R11). -/
def zext16 (b : Byte) : Word := b.zeroExtend 16

/-- The 8 bits a FEISTEL8 command reads of a register: `W[7:0]`, `DIN[7:0]`, `SK[k][7:0]`. -/
def lowByte (v : Word) : Byte := v.extractLsb' 0 8

/-- The bits above the FEISTEL8 block, `[15:8]` (spec/10_state.md R28). -/
def highByte (v : Word) : Byte := v.extractLsb' 8 8

/-- The FEISTEL8 key, `KEY[9:0]` (spec/10_state.md R25). -/
def keyLow10 (v : Word) : Key10 := v.extractLsb' 0 10

/-- The bits above the FEISTEL8 key, `KEY[15:10]` (spec/10_state.md R25). -/
def keyHigh6 (v : Word) : BitVec 6 := v.extractLsb' 10 6

/-- The subkey in slot k of a subkey file; there is no slot above 7, and no command that passes its checks asks for one. -/
def slot (sk : Vector Word 8) (k : Nat) : Word := sk.toList.getD k 0

/-- Whether a command reads subkeys: `FK`, `ARK`, `ENCRYPT`, `DECRYPT` (spec/10_state.md R26). -/
def readsSubkeys : Instr → Bool
  | .fk _ | .ark _ | .encrypt | .decrypt => true
  | .nop | .derive | .loadw | .storew | .ip | .fp | .swap => false
  | .nsub | .insub | .shuf | .ishuf => false

/-- Whether a command reads the input block: `LOADW`, `ENCRYPT`, `DECRYPT` (spec/10_state.md R28). -/
def readsDin : Instr → Bool
  | .loadw | .encrypt | .decrypt => true
  | .nop | .derive | .storew | .ip | .fp | .fk _ | .swap => false
  | .ark _ | .nsub | .insub | .shuf | .ishuf => false

/-- Whether a command reads Key Material: `DERIVE` (spec/10_state.md R25). -/
def readsKey : Instr → Bool
  | .derive => true
  | .nop | .encrypt | .decrypt | .loadw | .storew | .ip | .fp | .fk _ | .swap => false
  | .ark _ | .nsub | .insub | .shuf | .ishuf => false

/-- Whether the subkey index is outside the variant's range (spec/30_encoding.md R72): `FK k` needs k in 1..`NR_F`,
`ARK k` needs k in 0..`NR_S`. -/
def kOutOfRange (c : Configuration) : Instr → Bool
  | .fk k => !decide (1 ≤ k ∧ k ≤ c.nrF)
  | .ark k => !decide (k ≤ c.nrS)
  | .nop | .derive | .encrypt | .decrypt | .loadw | .storew | .ip | .fp | .swap => false
  | .nsub | .insub | .shuf | .ishuf => false

end Sys2Proof.Machine
end

