-- ==== Sys2Proof/Machine/Flags.lean ====
section
/-! DEFINITION. `STATUS`: how it reads as a word (spec/10_state.md R22), how the accepted `CMD` write, the completion and the
other events change its bits (spec/20_memory.md R55, R56, R58, spec/44_pipeline.md R190), the error codes
(spec/60_exceptions.md R220) and the order of the checks that choose one (R223). These are the core's only flags (R23). -/

namespace Sys2Proof.Machine

/-- The command errors (spec/60_exceptions.md R220). -/
inductive CmdError where
  | illegal
  | mode
  | kidx
  | nokey
  | len
  deriving DecidableEq, Repr

/-- The code `STATUS.ERR` holds (R220). -/
def errorCode : CmdError → BitVec 3
  | .illegal => 1
  | .mode    => 2
  | .kidx    => 3
  | .nokey   => 4
  | .len     => 5

/-- `STATUS` as a host reads it (spec/10_state.md R22). -/
def statusWord (f : Status) : Word :=
  0#9 ++ f.err ++ BitVec.ofBool f.ovr ++ BitVec.ofBool f.skv ++ BitVec.ofBool f.done ++ BitVec.ofBool f.busy

/-- `MODE` as a host reads it: `zext_16(MODE.VAR)` (spec/20_memory.md R53). -/
def modeWord : Variant → Word
  | .feistel8 => 0x0000
  | .spn16    => 0x0001

/-- `MODE.VAR` <- bit 0 of the written value (spec/10_state.md R24). -/
def variantOf (v : Word) : Variant := if v.getLsbD 0 then .spn16 else .feistel8

/-- An accepted `CMD` write: `BUSY` <- 1, `DONE` <- 0, `ERR` <- 0, `OVR` and `SKV` unchanged (spec/20_memory.md R55, a
decision of the spec, D8). So `DONE` can rise when the command ends (spec/60_exceptions.md R230, D25), and the two never hold
together (spec/10_state.md R22). The wording of spec/70_reset_and_hazards.md R261 on `DONE` and `ERR` disagrees: log 12. -/
def statusAccept (f : Status) : Status := { f with busy := true, done := false, err := 0 }

/-- The end of a command: `BUSY` <- 0, `DONE` <- 1 (spec/44_pipeline.md R190). -/
def statusComplete (f : Status) : Status := { f with busy := false, done := true }

/-- `STATUS.ERR` <- code (spec/60_exceptions.md R221). -/
def statusError (e : CmdError) (f : Status) : Status := { f with err := errorCode e }

/-- A host write of `STATUS`: bit 3 written 1 clears `OVR`, nothing else changes (spec/10_state.md R22, spec/20_memory.md
R58). -/
def statusWrite (v : Word) (f : Status) : Status := { f with ovr := f.ovr && !v.getLsbD 3 }

/-- `check` of spec/60_exceptions.md R223 for a decoded command: the lowest-numbered check that fails is the one
reported. (A word that does not decode is reported before any of these: `runSequencer`.) -/
def check (i : Instr) (s : State) : Option CmdError :=
  if i.feistelOnly && s.var == .spn16 then some .mode
  else if i.spnOnly && s.var == .feistel8 then some .mode
  else if kOutOfRange s.cfg i then some .kidx
  else if readsSubkeys i && !s.status.skv then some .nokey
  else if s.var == .feistel8 && readsKey i && keyHigh6 s.key != 0 then some .len
  else if s.var == .feistel8 && readsDin i && highByte s.din != 0 then some .len
  else none

end Sys2Proof.Machine
end

