-- ==== Sys2Proof/Machine/Ops.lean ====
section
/-! DEFINITION. The named operations over the registers: one update per register a command or an access writes, reading
the register space (spec/10_state.md R20, spec/20_memory.md R53), the command error as ONE shared operation
(spec/60_exceptions.md R221) with the completion beside it (spec/44_pipeline.md R190), and the frame every command runs
in. The core has no trap entry and no return from one (spec/60_exceptions.md R231): an error returns by completing. -/

namespace Sys2Proof.Machine

/-- `W <- v`. -/
def State.setW (v : Word) (s : State) : State := { s with w := v }

/-- `DOUT <- v`. -/
def State.setDout (v : Word) (s : State) : State := { s with dout := v }

/-- `SK[0..7] <- file`: all eight slots (spec/10_state.md R27). -/
def State.setSk (file : Vector Word 8) (s : State) : State := { s with sk := file }

/-- `STATUS.SKV <- 1` (spec/41_keyschedule.md R130). -/
def State.setSkv (s : State) : State := { s with status := { s.status with skv := true } }

/-- A composite command has run: the stage and the temporaries have no defined value any more (spec/10_state.md R30):
a free value (log 6). -/
def State.dropTemps (s : State) : State := { s with temps := Config.freeTemps s.draws, draws := s.draws + 1 }

/-- A subkey file of eight slots given slot by slot. -/
def skFile (f : Nat → Word) : Vector Word 8 := #v[f 0, f 1, f 2, f 3, f 4, f 5, f 6, f 7]

/-- `raise CmdError(code)` (spec/60_exceptions.md R221): `STATUS.ERR` <- code, and no other register changes. -/
def State.raise (e : CmdError) (s : State) : State := { s with status := statusError e s.status }

/-- The end of the sequencer's step (spec/44_pipeline.md R190): `BUSY` <- 0, `DONE` <- 1, `SEQ` <- IDLE. -/
def State.complete (s : State) : State := { s with status := statusComplete s.status, seq := .idle }

/-- The step of spec/44_pipeline.md R190 once the check has answered: the error, or the command's effect, and then the
completion. One atomic transition. -/
def runChecked (err : Option CmdError) (effect : State → State) (s : State) : Host.Outcome State Fault Refusal :=
  match err with
  | some e => .next (s.raise e).complete
  | none => .next (effect s).complete

/-- An accepted `CMD` write (spec/20_memory.md R55). -/
def State.acceptCmd (v : Word) (s : State) : State :=
  { s with cmd := v, status := statusAccept s.status, seq := .run }

/-- A write dropped because the core is busy: `STATUS.OVR` <- 1 and nothing else (spec/20_memory.md R56). -/
def State.dropWrite (s : State) : State := { s with status := { s.status with ovr := true } }

/-- An accepted `MODE` write (spec/10_state.md R24): `VAR` <- bit 0, `SKV` <- 0, `W` <- 0. -/
def State.writeMode (v : Word) (s : State) : State :=
  { s with var := variantOf v, status := { s.status with skv := false }, w := 0x0000 }

/-- A write of `STATUS` (spec/20_memory.md R58). -/
def State.writeStatus (v : Word) (s : State) : State := { s with status := statusWrite v s.status }

/-- An accepted `KEY` write (spec/20_memory.md R54). -/
def State.writeKey (v : Word) (s : State) : State := { s with key := v }

/-- An accepted `DIN` write (spec/20_memory.md R54). -/
def State.writeDin (v : Word) (s : State) : State := { s with din := v }

/-- The registers of the register space (spec/10_state.md R20). -/
inductive Reg where
  | cmd
  | status
  | mode
  | key
  | din
  | dout
  | w
  /-- Index 7: no storage. -/
  | reserved
  | sk (k : Fin 8)
  deriving DecidableEq, Repr

/-- The register at an index (spec/10_state.md R20): 8 + k is `SK[k]`. -/
def regAt (i : RegIndex) : Reg :=
  if i = 0 then .cmd
  else if i = 1 then .status
  else if i = 2 then .mode
  else if i = 3 then .key
  else if i = 4 then .din
  else if i = 5 then .dout
  else if i = 6 then .w
  else if i = 7 then .reserved
  else .sk (Fin.ofNat 8 i.toNat)

/-- The index of a register (spec/10_state.md R20). -/
def regIndex : Reg → RegIndex
  | .cmd => 0
  | .status => 1
  | .mode => 2
  | .key => 3
  | .din => 4
  | .dout => 5
  | .w => 6
  | .reserved => 7
  | .sk k => BitVec.ofNat 4 (8 + k.val)

/-- What a register holds, as the 16-bit word a host read returns while `BUSY` = 0 (spec/20_memory.md R53). -/
def State.readReg (s : State) : Reg → Word
  | .cmd => s.cmd
  | .status => statusWord s.status
  | .mode => modeWord s.var
  | .key => s.key
  | .din => s.din
  | .dout => s.dout
  | .w => s.w
  | .reserved => 0x0000
  | .sk k => slot s.sk k.val

/-- The registers the sequencer may be part-way through writing while `BUSY` = 1 (spec/20_memory.md R57). -/
def unstableWhileBusy : Reg → Bool
  | .dout | .w | .sk _ => true
  | .cmd | .status | .mode | .key | .din | .reserved => false

end Sys2Proof.Machine
end

