-- ==== Sys2Proof/Machine/DataMovement.lean ====
section
/-! DEFINITION. `NOP`, `LOADW` and `STOREW` (spec/44_pipeline.md R191 to R193). -/

namespace Sys2Proof.Machine

/-- `NOP` has no effect (R191). -/
def nopEffect (s : State) : State := s

/-- The block a variant takes from `DIN` (R192): `zext_16(DIN[7:0])` under FEISTEL8, all 16 bits under SPN16. -/
def inputBlock (var : Variant) (din : Word) : Word :=
  match var with
  | .feistel8 => zext16 (lowByte din)
  | .spn16 => din

/-- `W` <- the input block (R192). -/
def loadwEffect (s : State) : State := s.setW (inputBlock s.var s.din)

/-- `DOUT` <- `W` (R193). -/
def storewEffect (s : State) : State := s.setDout s.w

/-- `NOP` (R191). -/
def execNop (s : State) : Host.Outcome State Fault Refusal := runChecked (check .nop s) nopEffect s

/-- `LOADW` (R192). -/
def execLoadw (s : State) : Host.Outcome State Fault Refusal := runChecked (check .loadw s) loadwEffect s

/-- `STOREW` (R193). -/
def execStorew (s : State) : Host.Outcome State Fault Refusal := runChecked (check .storew s) storewEffect s

end Sys2Proof.Machine
end

