-- ==== Sys2Proof/Machine/Feistel.lean ====
section
/-! DEFINITION. The Feistel-round processor: `IP`, `FP`, `FK`, `SWAP` (spec/42_feistel_round.md R150 to R155). -/

namespace Sys2Proof.Machine

/-- The mixing function F(R, k) (R151). -/
def feistelF (c : Configuration) (r : Nibble) (k : Byte) : Nibble :=
  let x := permute r 8 c.ep ^^^ k
  let va := sbox2 c.s0 (splitHi (h := 4) x)
  let vb := sbox2 c.s1 (splitLo (h := 4) x)
  permute (n := 4) (va ++ vb) 4 c.p4

/-- fk(b, k) of R152 and R156: (L xor F(R, k)) ++ R. -/
def feistelRound (c : Configuration) (b : Byte) (k : Byte) : Byte :=
  (splitHi (h := 4) b ^^^ feistelF c (splitLo (h := 4) b) k) ++ splitLo (h := 4) b

/-- The half swap of R155. -/
def swapHalves (b : Byte) : Byte := splitLo (h := 4) b ++ splitHi (h := 4) b

/-- `IP`: `W` <- zext_16(permute(W[7:0], 8, IP)) (R153). -/
def ipEffect (s : State) : State := s.setW (zext16 (permute (lowByte s.w) 8 s.cfg.ip))

/-- `FP`: `W` <- zext_16(permute(W[7:0], 8, FP)) (R154). -/
def fpEffect (s : State) : State := s.setW (zext16 (permute (lowByte s.w) 8 s.cfg.fp))

/-- `FK k`: one Feistel round of `W[7:0]` with `SK[k][7:0]` (R152). -/
def fkEffect (k : Nat) (s : State) : State :=
  s.setW (zext16 (feistelRound s.cfg (lowByte s.w) (lowByte (slot s.sk k))))

/-- `SWAP`: exchange the halves of `W[7:0]` (R155). -/
def swapEffect (s : State) : State := s.setW (zext16 (swapHalves (lowByte s.w)))

/-- `IP` (R153). -/
def execIp (s : State) : Host.Outcome State Fault Refusal := runChecked (check .ip s) ipEffect s

/-- `FP` (R154). -/
def execFp (s : State) : Host.Outcome State Fault Refusal := runChecked (check .fp s) fpEffect s

/-- `FK k` (R152). -/
def execFk (k : Nat) (s : State) : Host.Outcome State Fault Refusal := runChecked (check (.fk k) s) (fkEffect k) s

/-- `SWAP` (R155). -/
def execSwap (s : State) : Host.Outcome State Fault Refusal := runChecked (check .swap s) swapEffect s

end Sys2Proof.Machine
end

