-- ==== Sys2Proof/Machine/KeySchedule.lean ====
section
/-! DEFINITION. The key-schedule engine: `DERIVE` (spec/41_keyschedule.md R130 to R137). -/

namespace Sys2Proof.Machine

/-- FEISTEL8 step 2 (R132): for each shift amount rotate both halves further and compress them to that round's subkey.
The halves carry over from round to round. -/
def feistelRoundKeys (p8 : List Nat) : List Nat → Half5 → Half5 → List Byte
  | [], _, _ => []
  | s :: rest, l, r =>
    let l' := rotl l s
    let r' := rotl r s
    permute (n := 10) (l' ++ r') 8 p8 :: feistelRoundKeys p8 rest l' r'

/-- The FEISTEL8 subkeys K_1, K_2, ... (R131, R132). -/
def feistelSubkeys (c : Configuration) (key : Key10) : List Byte :=
  let t := permute key 10 c.p10
  feistelRoundKeys c.p8 (c.shift.take c.nrF) (splitHi (h := 5) t) (splitLo (h := 5) t)

/-- `SK` after the FEISTEL8 schedule (R132): K_r in slot r for r = 1..`NR_F`, every other slot 0. -/
def feistelSchedule (c : Configuration) (key : Key10) : Vector Word 8 :=
  skFile fun k => if k = 0 then 0x0000 else zext16 ((feistelSubkeys c key).getD (k - 1) 0)

/-- `g(w, r)` (R134), r = 1..`NR_S`. -/
def gWord (c : Configuration) (w : Byte) (r : Nat) : Byte :=
  subword c.sbox (rotl w c.grot) ^^^ BitVec.ofNat 8 (c.rcon.getD (r - 1) 0)

/-- The new word w[i] from w[i-2] and w[i-1] (R136). -/
def nextWord (c : Configuration) (i : Nat) (w2 w1 : Byte) : Byte :=
  if c.kswAllG || i % 2 == 0 then w2 ^^^ gWord c w1 (i / 2) else w2 ^^^ w1

/-- The `n` words w[i], w[i+1], ... after w[i-2] and w[i-1] (R136). -/
def expandWords (c : Configuration) : Nat → Nat → Byte → Byte → List Byte
  | 0, _, _, _ => []
  | n + 1, i, w2, w1 =>
    let w := nextWord c i w2 w1
    w :: expandWords c n (i + 1) w1 w

/-- The SPN16 words w[0] .. w[2 * `NR_S` + 1] (R135, R136): w[0] = `KEY[15:8]`, w[1] = `KEY[7:0]`. -/
def keyWords (c : Configuration) (key : Word) : List Byte :=
  highByte key :: lowByte key :: expandWords c (2 * c.nrS) 2 (highByte key) (lowByte key)

/-- `SK` after the SPN16 schedule (R137): w[2r] ++ w[2r+1] in slot r for r = 0..`NR_S`, every other slot 0. -/
def wordSchedule (c : Configuration) (key : Word) : Vector Word 8 :=
  skFile fun r => if r ≤ c.nrS then (keyWords c key).getD (2 * r) 0 ++ (keyWords c key).getD (2 * r + 1) 0 else 0x0000

/-- The Subkey Set of the variant (R130). -/
def subkeySet (c : Configuration) (var : Variant) (key : Word) : Vector Word 8 :=
  match var with
  | .feistel8 => feistelSchedule c (keyLow10 key)
  | .spn16 => wordSchedule c key

/-- `DERIVE`'s effect (R130): all eight slots, `SKV` <- 1; the temporaries end with no defined value (spec/10_state.md
R30). -/
def deriveEffect (s : State) : State := ((s.setSk (subkeySet s.cfg s.var s.key)).setSkv).dropTemps

/-- `DERIVE` (R130). -/
def execDerive (s : State) : Host.Outcome State Fault Refusal := runChecked (check .derive s) deriveEffect s

end Sys2Proof.Machine
end

