-- ==== Sys2Proof/Machine/Spn.lean ====
section
/-! DEFINITION. The SPN round layers: `ARK`, `NSUB`, `INSUB`, `SHUF`, `ISHUF` (spec/43_spn_round.md R170 to R175). There is no
mixing layer (R175). -/

namespace Sys2Proof.Machine

/-- `ARK k`: `W` <- `W` xor `SK[k]` (R170). -/
def arkEffect (k : Nat) (s : State) : State := s.setW (s.w ^^^ slot s.sk k)

/-- `NSUB`: every nibble of `W` through `SBOX` (R171). -/
def nsubEffect (s : State) : State := s.setW (subNibbles s.cfg.sbox s.w)

/-- `INSUB`: every nibble of `W` through `ISBOX` (R172). -/
def insubEffect (s : State) : State := s.setW (subNibbles (inverseSbox s.cfg.sbox) s.w)

/-- `SHUF`: nibble j of the result is nibble `NPERM[j]` of `W` (R173). -/
def shufEffect (s : State) : State := s.setW (shuffleNibbles s.cfg.nperm s.w)

/-- `ISHUF`: nibble j of the result is nibble `NPERM_INV[j]` of `W` (R174). -/
def ishufEffect (s : State) : State := s.setW (shuffleNibbles (inversePositions 4 s.cfg.nperm) s.w)

/-- `ARK k` (R170). -/
def execArk (k : Nat) (s : State) : Host.Outcome State Fault Refusal := runChecked (check (.ark k) s) (arkEffect k) s

/-- `NSUB` (R171). -/
def execNsub (s : State) : Host.Outcome State Fault Refusal := runChecked (check .nsub s) nsubEffect s

/-- `INSUB` (R172). -/
def execInsub (s : State) : Host.Outcome State Fault Refusal := runChecked (check .insub s) insubEffect s

/-- `SHUF` (R173). -/
def execShuf (s : State) : Host.Outcome State Fault Refusal := runChecked (check .shuf s) shufEffect s

/-- `ISHUF` (R174). -/
def execIshuf (s : State) : Host.Outcome State Fault Refusal := runChecked (check .ishuf s) ishufEffect s

end Sys2Proof.Machine
end

