-- ==== Sys2Proof/Machine/Pipeline.lean ====
section
/-! DEFINITION. The block-cipher pipeline: `ENCRYPT` and `DECRYPT` as the fixed sequences of stages of
spec/44_pipeline.md R195 to R198. A stage is a round-level command without its checks (spec/60_exceptions.md R224). -/

namespace Sys2Proof.Machine

/-- The effect a round-level command has as a stage of a composite one (spec/00_scope.md R13). The composite commands
and `NOP` are no stages. -/
def stageEffect : Instr → State → State
  | .loadw => loadwEffect
  | .storew => storewEffect
  | .ip => ipEffect
  | .fp => fpEffect
  | .fk k => fkEffect k
  | .swap => swapEffect
  | .ark k => arkEffect k
  | .nsub => nsubEffect
  | .insub => insubEffect
  | .shuf => shufEffect
  | .ishuf => ishufEffect
  | .nop | .derive | .encrypt | .decrypt => nopEffect

/-- The stages one after the other (spec/00_scope.md R13). -/
def runStages (stages : List Instr) (s : State) : State := stages.foldl (fun t i => stageEffect i t) s

/-- `ENCRYPT` under FEISTEL8 (R195): `FK r` for r = 1..`NR_F`, a `SWAP` after every round but the last. -/
def feistelEncryptStages (n : Nat) : List Instr :=
  [.loadw, .ip] ++ (List.range' 1 n).flatMap (fun r => if r < n then [.fk r, .swap] else [.fk r]) ++ [.fp, .storew]

/-- `DECRYPT` under FEISTEL8 (R196): `FK r` for r = `NR_F` down to 1, a `SWAP` after every round but the last. -/
def feistelDecryptStages (n : Nat) : List Instr :=
  [.loadw, .ip] ++ (List.range' 1 n).reverse.flatMap (fun r => if 1 < r then [.fk r, .swap] else [.fk r]) ++
    [.fp, .storew]

/-- `ENCRYPT` under SPN16 (R197). -/
def spnEncryptStages (n : Nat) : List Instr :=
  [.loadw] ++ (List.range n).flatMap (fun r => [.ark r, .nsub, .shuf]) ++ [.ark n, .storew]

/-- `DECRYPT` under SPN16 (R198). -/
def spnDecryptStages (n : Nat) : List Instr :=
  [.loadw] ++ (List.range' 1 n).reverse.flatMap (fun r => [.ark r, .insub, .ishuf]) ++ [.ark 0, .storew]

/-- The stages of `ENCRYPT` (R195, R197). -/
def encryptStages (c : Configuration) : Variant → List Instr
  | .feistel8 => feistelEncryptStages c.nrF
  | .spn16 => spnEncryptStages c.nrS

/-- The stages of `DECRYPT` (R196, R198). -/
def decryptStages (c : Configuration) : Variant → List Instr
  | .feistel8 => feistelDecryptStages c.nrF
  | .spn16 => spnDecryptStages c.nrS

/-- `ENCRYPT`'s effect: its stages in order; the sequencer's stage ends with no defined value (spec/10_state.md R30). -/
def encryptEffect (s : State) : State := (runStages (encryptStages s.cfg s.var) s).dropTemps

/-- `DECRYPT`'s effect. -/
def decryptEffect (s : State) : State := (runStages (decryptStages s.cfg s.var) s).dropTemps

/-- `ENCRYPT` (R195, R197). -/
def execEncrypt (s : State) : Host.Outcome State Fault Refusal := runChecked (check .encrypt s) encryptEffect s

/-- `DECRYPT` (R196, R198). -/
def execDecrypt (s : State) : Host.Outcome State Fault Refusal := runChecked (check .decrypt s) decryptEffect s

end Sys2Proof.Machine
end

