-- ==== Sys2Proof/Machine/Dispatch.lean ====
section
/-! DEFINITION. The meaning of every instruction, one arm per constructor (spec/30_encoding.md R73). -/

namespace Sys2Proof.Machine

def exec (i : Instr) (s : State) : Host.Outcome State Fault Refusal :=
  match i with
  | .nop => Sys2Proof.Machine.execNop s
  | .derive => Sys2Proof.Machine.execDerive s
  | .encrypt => Sys2Proof.Machine.execEncrypt s
  | .decrypt => Sys2Proof.Machine.execDecrypt s
  | .loadw => Sys2Proof.Machine.execLoadw s
  | .storew => Sys2Proof.Machine.execStorew s
  | .ip => Sys2Proof.Machine.execIp s
  | .fp => Sys2Proof.Machine.execFp s
  | .fk k => Sys2Proof.Machine.execFk k s
  | .swap => Sys2Proof.Machine.execSwap s
  | .ark k => Sys2Proof.Machine.execArk k s
  | .nsub => Sys2Proof.Machine.execNsub s
  | .insub => Sys2Proof.Machine.execInsub s
  | .shuf => Sys2Proof.Machine.execShuf s
  | .ishuf => Sys2Proof.Machine.execIshuf s

end Sys2Proof.Machine
end

