-- ==== Sys2Proof/Machine/HostPort.lean ====
section
/-! DEFINITION. The register port (spec/20_memory.md R51 to R58) and the reset step (spec/70_reset_and_hazards.md R250). -/

namespace Sys2Proof.Machine

/-- Whether a read of this index answers any value: `W`, `DOUT` and `SK` while `BUSY` = 1 (spec/20_memory.md R57). -/
def answerIsFree (i : RegIndex) (s : State) : Bool := s.status.busy && unstableWhileBusy (regAt i)

/-- What a read of this index returns at this point (spec/20_memory.md R53, R57): the stored word, or the next free value
(log 4). -/
def readAnswer (i : RegIndex) (s : State) : Word :=
  if answerIsFree i s then Config.freeWord s.draws else s.readReg (regAt i)

/-- `MemRead(i, 16)` (spec/20_memory.md R53): the answer goes to `rdata`, and a free value is drawn for this read alone (R57,
log 4); no register changes. -/
def memRead (i : RegIndex) (s : State) : State :=
  { s with
    rdata := readAnswer i s :: s.rdata
    draws := if answerIsFree i s then s.draws + 1 else s.draws }

/-- `MemWrite(i, 16, v)` (spec/20_memory.md R54, R55, R56, R58). -/
def memWrite (i : RegIndex) (v : Word) (s : State) : State :=
  match regAt i with
  | .cmd => if s.status.busy then s.dropWrite else s.acceptCmd v
  | .mode => if s.status.busy then s.dropWrite else s.writeMode v
  | .key => if s.status.busy then s.dropWrite else s.writeKey v
  | .din => if s.status.busy then s.dropWrite else s.writeDin v
  | .status => s.writeStatus v
  | .dout | .w | .reserved | .sk _ => s

/-- The reset step (spec/70_reset_and_hazards.md R250): every register at its reset value; each slot of `SK` a free
value of its own, and the stage and the temporaries one more (log 3, log 6). The configuration stays. -/
def takeReset (s : State) : State :=
  { s with
    cmd := 0x0000
    status := Status.reset
    var := .feistel8
    key := 0x0000
    din := 0x0000
    dout := 0x0000
    w := 0x0000
    sk := skFile fun k => Config.freeWord (s.draws + k)
    seq := .idle
    temps := Config.freeTemps (s.draws + 8)
    draws := s.draws + 9 }

/-- The reset line is driven to a level at a rising edge of `clk`: with level 1 the core takes the reset step. -/
def driveRst (level : Bool) (s : State) : State :=
  if level then { takeReset s with rst := true } else { s with rst := false }

end Sys2Proof.Machine
end

