-- ==== Sys2Proof/Machine/Sequencer.lean ====
section
/-! DEFINITION. The round sequencer's step (spec/44_pipeline.md R190) and what one turn at the core's ports does. -/

namespace Sys2Proof.Machine

/-- The sequencer's step (R190): enabled iff `SEQ` = RUN. It decodes `CMD`; an illegal word fails with `ERR_ILLEGAL`
(spec/60_exceptions.md R222), a decoded command is checked and executed by its meaning. With `SEQ` = IDLE the core holds
its registers and does nothing (spec/60_exceptions.md R236; log 10). -/
def runSequencer (s : State) : Host.Outcome State Fault Refusal :=
  match s.seq with
  | .idle => .next s
  | .run =>
    match decode s.cmd with
    | .error _ => runChecked (some .illegal) nopEffect s
    | .ok i => exec i s

/-- The sequencer's turn: while `rst` = 1 the reset step takes the command step's place (spec/70_reset_and_hazards.md
R250). -/
def sequencerTurn (s : State) : Host.Outcome State Fault Refusal :=
  if s.rst then .next (takeReset s) else runSequencer s

/-- One turn at the core's ports. Host accesses made while `rst` = 1 are ignored (spec/70_reset_and_hazards.md R250). -/
def takeInput (e : Input) (s : State) : Host.Outcome State Fault Refusal :=
  match e with
  | .read i => .next (if s.rst then s else memRead i s)
  | .write i v => .next (if s.rst then s else memWrite i v s)
  | .rst level => .next (driveRst level s)
  | .sequencer => sequencerTurn s

/-- The accesses left to make are `es`. -/
def State.setInputs (es : List Input) (s : State) : State := { s with inputs := es }

/-- The next turn: the first entry of `inputs`, and with none left the sequencer's (log 7). -/
def nextTurn (s : State) : Host.Outcome State Fault Refusal :=
  match s.inputs with
  | [] => sequencerTurn s
  | e :: es => takeInput e (s.setInputs es)

/-- The state in which the command word `v` has just been accepted and the sequencer moves next, whatever ran before: the
reset line is low and no access comes first (log 15). -/
def State.withCommand (v : Word) (s : State) : State := ({ s with rst := false, inputs := [] }).acceptCmd v

end Sys2Proof.Machine
end

