-- ==== Sys2Proof/Machine/Step.lean ====
section
/-! DEFINITION. One step of the machine: one turn at its ports (spec/20_memory.md R62), on a core whose configuration is well
formed (spec/40_datapath.md R111, spec/60_exceptions.md R226). -/

namespace Sys2Proof.Machine

/-- One step. An ill-formed configuration has no machine: every step refuses it by name (R226; log 11). -/
def step (s : State) : Host.Outcome State Fault Refusal :=
  if s.cfg.wellFormed then nextTurn s else .refused .illFormedConfiguration

/-- The state whose very next step runs the instruction with these bits: the core fetches nothing, so this stands for an
accepted `CMD` write of the word (spec/20_memory.md R55), with the sequencer to move (log 15). -/
def State.withFetchWord (s : State) (nbits w : Nat) : State := s.withCommand (BitVec.ofNat 16 (w % 2 ^ nbits))

end Sys2Proof.Machine
end

