-- ==== Sys2Proof/Machine/Script.lean ====
section
/-! DEFINITION. How a host drives the core in text: the assembler's reading of a command line (spec/30_encoding.md R78), the
host-script lines and the pseudo-instructions as accesses at the register port (R79, R80). A line is a list of
characters. -/

namespace Sys2Proof.Machine

/-- The mnemonics of the commands without an operand (R73, R78). -/
def plainMnemonics : List (List Char × Instr) :=
  [(['N', 'O', 'P'], .nop), (['D', 'E', 'R', 'I', 'V', 'E'], .derive), (['E', 'N', 'C', 'R', 'Y', 'P', 'T'], .encrypt),
    (['D', 'E', 'C', 'R', 'Y', 'P', 'T'], .decrypt), (['L', 'O', 'A', 'D', 'W'], .loadw),
    (['S', 'T', 'O', 'R', 'E', 'W'], .storew), (['I', 'P'], .ip), (['F', 'P'], .fp), (['S', 'W', 'A', 'P'], .swap),
    (['N', 'S', 'U', 'B'], .nsub), (['I', 'N', 'S', 'U', 'B'], .insub), (['S', 'H', 'U', 'F'], .shuf),
    (['I', 'S', 'H', 'U', 'F'], .ishuf)]

/-- A line without its comment (`;` to the end of the line) and without trailing blanks (R78). -/
def codeOfLine (line : List Char) : List Char :=
  ((line.takeWhile fun ch => ch != ';').reverse.dropWhile fun ch => ch == ' ').reverse

/-- A decimal number; none for no digits or another character. -/
def decimal : List Char → Option Nat
  | [] => none
  | ds => ds.foldl (fun acc ch => acc.bind fun n => if ch.isDigit then some (10 * n + (ch.toNat - 48)) else none) (some 0)

/-- An index operand: a decimal number 0..7 (R78). -/
def indexOperand (cs : List Char) : Option Nat := (decimal cs).filter fun k => decide (k ≤ 7)

/-- The command of a line (R78): `FK` and `ARK` take one space and an index, every other mnemonic no operand; anything
else is rejected. -/
def assembleLine (line : List Char) : Option Instr :=
  match codeOfLine line with
  | 'F' :: 'K' :: ' ' :: rest => (indexOperand rest).map Instr.fk
  | 'A' :: 'R' :: 'K' :: ' ' :: rest => (indexOperand rest).map Instr.ark
  | code => plainMnemonics.lookup code

/-- A line of a host script (R79). `polls` is how many times `WAIT` reads `STATUS` with `BUSY` = 1 before the
sequencer's step happens: latency, which no rule depends on (log 21). -/
inductive ScriptLine where
  | wr (r : Reg) (v : Word)
  | rd (r : Reg)
  | cmd (i : Instr)
  | wait (polls : Nat)
  | run (i : Instr) (polls : Nat)
  | expect (r : Reg) (v : Word)
  deriving DecidableEq, Repr

/-- `WAIT` (R80): polls of `STATUS` while busy, the sequencer's step, and the poll that sees `BUSY` = 0. -/
def waitInputs (polls : Nat) : List Input :=
  List.replicate polls (.read (regIndex .status)) ++ [.sequencer, .read (regIndex .status)]

/-- `CMD c` (R80): `WR CMD, encode(c)`. -/
def cmdInputs (i : Instr) : List Input := [.write (regIndex .cmd) (encode i)]

/-- The accesses a script line makes (R79, R80). `EXPECT` is an assertion, not an access. -/
def lineInputs : ScriptLine → List Input
  | .wr r v => [.write (regIndex r) v]
  | .rd r => [.read (regIndex r)]
  | .cmd i => cmdInputs i
  | .wait polls => waitInputs polls
  | .run i polls => cmdInputs i ++ waitInputs polls
  | .expect _ _ => []

/-- The accesses a host script makes, in program order (R79). -/
def scriptInputs (script : List ScriptLine) : List Input := script.flatMap lineInputs

/-- What an `EXPECT` line asserts: the value a read at that point returns (R79). R79 leaves open what that is for `W`, `DOUT`
and `SK` while `BUSY` = 1, where a read returns any value (spec/20_memory.md R57): the model compares with the free value the
next such read would draw, so that there the assertion can be proved neither to hold nor to fail (DESIGN CHOICE, log 25).
Any other line asserts nothing. -/
def expectHolds (s : State) : ScriptLine → Bool
  | .expect r v => readAnswer (regIndex r) s == v
  | .wr _ _ | .rd _ | .cmd _ | .wait _ | .run _ _ => true

end Sys2Proof.Machine
end

