-- ==== Sys2Proof/Safety.lean ====
section
/-! DEFINITION. What a good state and a safe run of the core are. -/

namespace Sys2Proof.Machine

/-- Whether slot k of `SK` belongs to the Subkey Set of a variant (spec/10_state.md R27): 1..`NR_F` under FEISTEL8,
0..`NR_S` under SPN16. -/
def usedSlot (c : Configuration) : Variant → Nat → Bool
  | .feistel8, k => decide (1 ≤ k ∧ k ≤ c.nrF)
  | .spn16, k => decide (k ≤ c.nrS)

/-- What holds of the core at every command boundary and between any two host accesses. -/
structure State.Inv (s : State) : Prop where
  /-- The core was built with a well-formed configuration (spec/40_datapath.md R111). -/
  configuration : s.cfg.wellFormed = true
  /-- `SEQ` = RUN exactly when `STATUS.BUSY` = 1 (spec/10_state.md R30). -/
  seq_iff_busy : s.seq = .run ↔ s.status.busy = true
  /-- `BUSY` = 1 and `DONE` = 1 never hold together (spec/10_state.md R22). -/
  busy_or_done : ¬(s.status.busy = true ∧ s.status.done = true)
  /-- Error codes 6 and 7 are never produced (spec/60_exceptions.md R220). -/
  error_code : s.status.err.toNat ≤ 5
  /-- An error code belongs to a command that has ended (spec/10_state.md R22). -/
  error_done : s.status.err ≠ 0 → s.status.done = true
  /-- Under FEISTEL8 `W[15:8]` = 0 (spec/10_state.md R29). -/
  work_block : s.var = .feistel8 → highByte s.w = 0
  /-- While `SKV` = 1 every slot outside the Subkey Set holds 0x0000 (spec/10_state.md R27). -/
  unused_slots : s.status.skv = true → ∀ k : Fin 8, usedSlot s.cfg s.var k.val = false → s.readReg (.sk k) = 0x0000
  /-- While `SKV` = 1 under FEISTEL8 a subkey is `zext_16` of its 8 bits (spec/10_state.md R27). -/
  subkey_width : s.status.skv = true → s.var = .feistel8 → ∀ k : Fin 8, highByte (s.readReg (.sk k)) = 0
  /-- While `rst` = 1 no command runs (spec/70_reset_and_hazards.md R250). -/
  reset_idle : s.rst = true → s.seq = .idle

/-- A run is safe for `n` steps when it ends in a next state: no fault and no refusal on the way. -/
def SafeFor (n : Nat) (s : State) : Prop := ∃ t, Host.Core.run core n s = .next t

/-- The input block fits the variant (spec/10_state.md R28): under FEISTEL8 `DIN[15:8]` = 0. -/
def dinFits (s : State) : Prop := s.var = .feistel8 → highByte s.din = 0

/-- Key Material fits the variant (spec/10_state.md R25): under FEISTEL8 `KEY[15:10]` = 0. -/
def keyFits (s : State) : Prop := s.var = .feistel8 → keyHigh6 s.key = 0

end Sys2Proof.Machine
end

