-- ==== Sys2Proof/Certificates/Slice0/Obligations.lean ====
section
/-! DEFINITION. The statements for the provers, one `Obligations.<Name>` each, in the order of the spec's subjects:
encoding, step, invariant, commands, key schedule, pipeline, properties, errors, register port, reset, datapath. -/

namespace Sys2Proof.Machine

/-- The end of a command without error (spec/44_pipeline.md R190): `BUSY` <- 0, `DONE` <- 1, `SEQ` <- IDLE. -/
abbrev ended (s : State) : State := { s with status := { s.status with busy := false, done := true }, seq := .idle }

/-- The end of a command with an error (spec/60_exceptions.md R221, spec/44_pipeline.md R190): `ERR` <- code and the
completion, nothing else. -/
abbrev failed (code : BitVec 3) (s : State) : State :=
  { s with status := { s.status with busy := false, done := true, err := code }, seq := .idle }

/-- The subkey in slot r, as a host reads it while idle. -/
abbrev subkey (s : State) (r : Nat) : Word := s.readReg (.sk (Fin.ofNat 8 r))

/-- `SK[r][7:0]`. -/
abbrev subkeyByte (s : State) (r : Nat) : Byte := (subkey s r).extractLsb' 0 8

end Sys2Proof.Machine

open Sys2Proof Sys2Proof.Machine

/-! ### Encoding (spec/30_encoding.md) -/

/-- One word of every row of the opcode map, written out bit by bit from R71 and R73, decodes to its command. -/
def Obligations.DecodesTheWordsOfTheOpcodeMap : Prop :=
  decode 0b000000000_000_0000 = .ok .nop ∧
  decode 0b000000000_000_0001 = .ok .derive ∧
  decode 0b000000000_000_0010 = .ok .encrypt ∧
  decode 0b000000000_000_0011 = .ok .decrypt ∧
  decode 0b000000000_000_0100 = .ok .loadw ∧
  decode 0b000000000_000_0101 = .ok .storew ∧
  decode 0b000000000_000_0110 = .ok .ip ∧
  decode 0b000000000_000_0111 = .ok .fp ∧
  decode 0b000000000_010_1000 = .ok (.fk 2) ∧
  decode 0b000000000_000_1001 = .ok .swap ∧
  decode 0b000000000_001_1010 = .ok (.ark 1) ∧
  decode 0b000000000_000_1011 = .ok .nsub ∧
  decode 0b000000000_000_1100 = .ok .insub ∧
  decode 0b000000000_000_1101 = .ok .shuf ∧
  decode 0b000000000_000_1110 = .ok .ishuf

/-- R76 (and R75, first point): decoding by the fields of the word. A word is illegal exactly when `RES` is not 0, or
`OP` = 0xF, or `K` is not 0 on an operation other than 0x8 and 0xA; `FK` and `ARK` take k = `K`; every other legal word is
its `OP` alone. -/
def Obligations.DecodeIsTotalAndRejectsExactlyReservedWords : Prop :=
  ∀ v : Word,
    ((∃ e, decode v = .error e) ↔
      v.extractLsb' 7 9 ≠ 0 ∨ v.extractLsb' 0 4 = 0xF ∨
        (v.extractLsb' 4 3 ≠ 0 ∧ v.extractLsb' 0 4 ≠ 0x8 ∧ v.extractLsb' 0 4 ≠ 0xA)) ∧
    (v.extractLsb' 7 9 = 0 → v.extractLsb' 0 4 = 0x8 → decode v = .ok (.fk (v.extractLsb' 4 3).toNat)) ∧
    (v.extractLsb' 7 9 = 0 → v.extractLsb' 0 4 = 0xA → decode v = .ok (.ark (v.extractLsb' 4 3).toNat)) ∧
    (v.extractLsb' 7 9 = 0 → v.extractLsb' 4 3 = 0 → v.extractLsb' 0 4 ≠ 0x8 → v.extractLsb' 0 4 ≠ 0xA →
      v.extractLsb' 0 4 ≠ 0xF →
      ∃ i, decode v = .ok i ∧ i.row = ⟨(v.extractLsb' 0 4).zeroExtend 16, 0xFFFF⟩)

/-- Decoding the word of a well-formed instruction gives the instruction back, with every operand. -/
def Obligations.DecodeOfEncodeIsTheInstruction : Prop :=
  ∀ i : Instr, i.wellFormed = true → decode (encode i) = .ok i

/-- A word that decodes is the word of the instruction it decodes to, and that instruction is well formed. -/
def Obligations.EncodeOfDecodeIsTheWord : Prop :=
  ∀ (v : Word) (i : Instr), decode v = .ok i → i.wellFormed = true ∧ encode i = v

/-- R77: the row of every command, a word is a row's command exactly when match and mask say so, the words with an operand,
and no two rows match the same word. -/
def Obligations.TableRowsMatchExactlyTheirCommands : Prop :=
  ([.nop, .derive, .encrypt, .decrypt, .loadw, .storew, .ip, .fp, .swap, .nsub, .insub, .shuf, .ishuf].map Instr.row =
    [⟨0x0000, 0xFFFF⟩, ⟨0x0001, 0xFFFF⟩, ⟨0x0002, 0xFFFF⟩, ⟨0x0003, 0xFFFF⟩, ⟨0x0004, 0xFFFF⟩, ⟨0x0005, 0xFFFF⟩,
      ⟨0x0006, 0xFFFF⟩, ⟨0x0007, 0xFFFF⟩, ⟨0x0009, 0xFFFF⟩, ⟨0x000B, 0xFFFF⟩, ⟨0x000C, 0xFFFF⟩, ⟨0x000D, 0xFFFF⟩,
      ⟨0x000E, 0xFFFF⟩]) ∧
  (∀ k : Nat, (Instr.fk k).row = ⟨0x0008, 0xFF8F⟩ ∧ (Instr.ark k).row = ⟨0x000A, 0xFF8F⟩) ∧
  (∀ i : Instr, i.row ∈ opcodeTable) ∧
  (∀ v : Word, ∀ r ∈ opcodeTable, v &&& r.mask = r.pattern ↔ ∃ i, decode v = .ok i ∧ i.row = r) ∧
  (∀ v : Word, ∀ r₁ ∈ opcodeTable, ∀ r₂ ∈ opcodeTable,
    v &&& r₁.mask = r₁.pattern → v &&& r₂.mask = r₂.pattern → r₁ = r₂) ∧
  (∀ k : Nat, k ≤ 7 → encode (.fk k) = 0x0008 ||| (BitVec.ofNat 16 k <<< 4) ∧
    encode (.ark k) = 0x000A ||| (BitVec.ofNat 16 k <<< 4))

/-- R78: an assembler gives well-formed instructions only; every mnemonic gives its command, `FK` and `ARK` with one space and
an index 0..7; an index above 7, a missing or an extra operand and an unknown mnemonic give nothing; a comment is dropped.
No clause rests on what log 23 adds to the rule. -/
def Obligations.AssemblerAcceptsOnlyWellFormedCommands : Prop :=
  (∀ (line : List Char) (i : Instr), assembleLine line = some i → i.wellFormed = true) ∧
  (∀ k : Fin 8, assembleLine ['F', 'K', ' ', Char.ofNat (48 + k.val)] = some (.fk k.val) ∧
    assembleLine ['A', 'R', 'K', ' ', Char.ofNat (48 + k.val)] = some (.ark k.val)) ∧
  (∀ p ∈ [(['N', 'O', 'P'], Instr.nop), (['D', 'E', 'R', 'I', 'V', 'E'], .derive),
      (['E', 'N', 'C', 'R', 'Y', 'P', 'T'], .encrypt), (['D', 'E', 'C', 'R', 'Y', 'P', 'T'], .decrypt),
      (['L', 'O', 'A', 'D', 'W'], .loadw), (['S', 'T', 'O', 'R', 'E', 'W'], .storew), (['I', 'P'], .ip), (['F', 'P'], .fp),
      (['S', 'W', 'A', 'P'], .swap), (['N', 'S', 'U', 'B'], .nsub), (['I', 'N', 'S', 'U', 'B'], .insub),
      (['S', 'H', 'U', 'F'], .shuf), (['I', 'S', 'H', 'U', 'F'], .ishuf)],
    assembleLine p.1 = some p.2 ∧ assembleLine (p.1 ++ [' ', '1']) = none ∧
      ∀ comment : List Char, assembleLine (p.1 ++ ';' :: comment) = some p.2) ∧
  assembleLine ['F', 'K', ' ', '8'] = none ∧ assembleLine ['A', 'R', 'K', ' ', '8'] = none ∧
  assembleLine ['F', 'K'] = none ∧ assembleLine ['A', 'R', 'K'] = none ∧ assembleLine ['M', 'I', 'X'] = none

/-! ### The step (spec/44_pipeline.md R190) -/

/-- When the sequencer moves, the command in `CMD` runs as its meaning says, and the step adds nothing around it but taking
the turn off the list (log 7); a word that does not decode ends with code 1. -/
def Obligations.StepRunsTheDecodedCommand : Prop :=
  ∀ s : State, s.cfg.wellFormed = true → s.seq = .run → s.rst = false →
    (∀ i, decode s.cmd = .ok i →
      (s.inputs = [] → step s = exec i s) ∧
      (∀ es, s.inputs = .sequencer :: es → step s = exec i { s with inputs := es })) ∧
    (∀ e, decode s.cmd = .error e →
      (s.inputs = [] → step s = .next (failed 1 s)) ∧
      (∀ es, s.inputs = .sequencer :: es → step s = .next (failed 1 { s with inputs := es })))

/-- The state `withFetchWord` gives runs the instruction of the word as its very next step (log 15). -/
def Obligations.FetchedWordRunsNext : Prop :=
  ∀ (s : State) (v : Nat) (i : Instr), s.cfg.wellFormed = true → decodeTableWord 16 v = some i →
    step (s.withFetchWord 16 v) = exec i (s.withFetchWord 16 v) ∧
    s.withFetchWord 16 v =
      { s with
        cmd := BitVec.ofNat 16 v
        status := { s.status with busy := true, done := false, err := 0 }
        seq := .run
        rst := false
        inputs := [] }

/-- R236: while `SEQ` = IDLE the core holds everything when the sequencer's turn comes, and it leaves IDLE only on an
accepted `CMD` write. The turns are the model's list (log 7), and a turn while idle answers the same state (log 10). -/
def Obligations.IdleCoreHoldsUntilCmdWrite : Prop :=
  (∀ s : State, s.cfg.wellFormed = true → s.seq = .idle → s.rst = false →
    (s.inputs = [] → step s = .next s) ∧
    (∀ es, s.inputs = .sequencer :: es → step s = .next { s with inputs := es })) ∧
  (∀ s t : State, s.seq = .idle → step s = .next t → t.seq = .run →
    ∃ v es, s.inputs = .write 0 v :: es ∧ s.rst = false ∧ s.status.busy = false ∧ t.cmd = v)

/-- R226: an ill-formed configuration has no core: every step refuses it (log 11). -/
def Obligations.IllFormedConfigurationIsRefused : Prop :=
  ∀ s : State, s.cfg.wellFormed = false → step s = .refused .illFormedConfiguration

/-- A well-formed core always answers a next state: no error stops it (R221, R231) and no state is stuck (R227). -/
def Obligations.WellFormedCoreAlwaysAnswersNext : Prop :=
  (∀ s : State, s.cfg.wellFormed = true → ∃ t, step s = .next t) ∧ (∀ (s : State) (r : Fault), step s ≠ .fault r)

/-- R190 and R266: within one turn more than the inputs that wait, the sequencer is idle, whatever the inputs are (a reset
among them ends the command too). With no reset on the way the command's own step happens: at most as many turns as inputs
wait lead to a state with the same command and operands, where only `OVR`, the answers and the draws may have changed, and
the next step is the sequencer's on that command, after which it is idle. The finite list of inputs is the model's form of
weak fairness (log 7). -/
def Obligations.RunningCommandEndsEventually : Prop :=
  ∀ s : State, s.cfg.wellFormed = true → s.seq = .run →
    (∃ n t, 1 ≤ n ∧ n ≤ s.inputs.length + 1 ∧ Host.Core.run core n s = .next t ∧ t.seq = .idle) ∧
    (s.status.busy = true → s.rst = false → Input.rst true ∉ s.inputs →
      ∃ n u es t, n ≤ s.inputs.length ∧ Host.Core.run core n s = .next u ∧
        u = { s with
          status := { s.status with ovr := u.status.ovr }, inputs := u.inputs, rdata := u.rdata, draws := u.draws } ∧
        (u.inputs = .sequencer :: es ∨ (u.inputs = [] ∧ es = [])) ∧
        step u = .next t ∧ runSequencer { u with inputs := es } = .next t ∧ t.seq = .idle)

/-- R32 (tables are constant): no step changes the configuration, which State carries (log 1). -/
def Obligations.ConfigurationNeverChanges : Prop :=
  ∀ s t : State, step s = .next t → t.cfg = s.cfg

/-! ### The invariant -/

/-- The invariant holds right after reset. -/
def Obligations.ResetMeetsInvariant : Prop := State.reset.Inv

/-- Every step keeps the invariant: `SEQ` and `BUSY` agree, `BUSY` and `DONE` exclude each other, only codes 0..5 and only
after the end of a command, `W[15:8]` = 0 under FEISTEL8, unused subkey slots 0 while `SKV` = 1, no command during reset. -/
def Obligations.EveryStepKeepsInvariant : Prop :=
  ∀ s t : State, s.Inv → step s = .next t → t.Inv

/-- The frame of all fifteen commands: what a command may write and what none writes (R21, R23, R24, R25, R27, R28, R29). The
last clause is the model's choice, not the spec's, which gives the stage and the temporaries no defined value (R30): a
round-level command keeps them (log 6) and draws no free value (log 5). -/
def Obligations.CommandsWriteOnlyTheirRegisters : Prop :=
  ∀ (i : Instr) (s t : State), exec i s = .next t →
    t.cfg = s.cfg ∧ t.cmd = s.cmd ∧ t.var = s.var ∧ t.key = s.key ∧ t.din = s.din ∧ t.rst = s.rst ∧
    t.rdata = s.rdata ∧ t.inputs = s.inputs ∧
    t.status.busy = false ∧ t.status.done = true ∧ t.seq = .idle ∧ t.status.ovr = s.status.ovr ∧
    (i ≠ .derive → t.sk = s.sk ∧ t.status.skv = s.status.skv) ∧
    (i ≠ .storew → i ≠ .encrypt → i ≠ .decrypt → t.dout = s.dout) ∧
    (i = .nop ∨ i = .derive ∨ i = .storew → t.w = s.w) ∧
    (i ≠ .derive → i ≠ .encrypt → i ≠ .decrypt → t.temps = s.temps ∧ t.draws = s.draws)

/-! ### The commands -/

/-- R191: `NOP` only completes, in every state. -/
def Obligations.NopOnlyCompletes : Prop := ∀ s : State, exec .nop s = .next (ended s)

/-- R192: `LOADW` loads the input block, `zext_16(DIN[7:0])` under FEISTEL8 where `DIN[15:8]` must be 0, `DIN` under SPN16;
nothing else changes. -/
def Obligations.LoadwLoadsTheInputBlock : Prop :=
  ∀ s : State,
    (s.var = .feistel8 → s.din.extractLsb' 8 8 = 0 →
      exec .loadw s = .next (ended { s with w := 0#8 ++ s.din.extractLsb' 0 8 })) ∧
    (s.var = .spn16 → exec .loadw s = .next (ended { s with w := s.din })) ∧
    (s.var = .feistel8 → s.din.extractLsb' 8 8 ≠ 0 → exec .loadw s = .next (failed 5 s))

/-- R193: `STOREW` stores `W` in `DOUT`, in every state; nothing else changes. -/
def Obligations.StorewStoresTheWorkingBlock : Prop :=
  ∀ s : State, exec .storew s = .next (ended { s with dout := s.w })

/-- R153 and R154: under FEISTEL8, `IP` and `FP` put the bit at position `IP[i]` (`FP[i]`) of `W[7:0]` at position i, clear
`W[15:8]`, and change nothing else. Position p of an 8-bit block is bit 8 - p (spec/00_scope.md R10). -/
def Obligations.IpAndFpPermuteTheWorkingBlock : Prop :=
  ∀ s : State, s.cfg.wellFormed = true → s.var = .feistel8 →
    (∃ t, exec .ip s = .next t ∧ t = ended { s with w := t.w } ∧ t.w.extractLsb' 8 8 = 0 ∧
      ∀ i, 1 ≤ i → i ≤ 8 → t.w.getLsbD (8 - i) = s.w.getLsbD (8 - s.cfg.ip.getD (i - 1) 0)) ∧
    (∃ t, exec .fp s = .next t ∧ t = ended { s with w := t.w } ∧ t.w.extractLsb' 8 8 = 0 ∧
      ∀ i, 1 ≤ i → i ≤ 8 → t.w.getLsbD (8 - i) = s.w.getLsbD (8 - s.cfg.fp.getD (i - 1) 0))

/-- R155: under FEISTEL8, `SWAP` exchanges the halves of `W[7:0]`, clears `W[15:8]`, and changes nothing else. -/
def Obligations.SwapExchangesTheHalves : Prop :=
  ∀ s : State, s.var = .feistel8 →
    exec .swap s = .next (ended { s with w := 0#8 ++ s.w.extractLsb' 0 4 ++ s.w.extractLsb' 4 4 })

/-- R151 and R152: under FEISTEL8, with subkeys and k in 1..`NR_F`, `FK k` XORs F(R, `SK[k][7:0]`) into L, keeps R, clears
`W[15:8]`, and changes nothing else; F is written out. -/
def Obligations.FkAppliesOneFeistelRound : Prop :=
  ∀ (s : State) (k : Fin 8), s.var = .feistel8 → s.status.skv = true → 1 ≤ k.val → k.val ≤ s.cfg.nrF →
    let r : Nibble := s.w.extractLsb' 0 4
    let x : Byte := permute r 8 s.cfg.ep ^^^ (s.readReg (.sk k)).extractLsb' 0 8
    let va : BitVec 2 := sbox2 s.cfg.s0 (x.extractLsb' 4 4)
    let vb : BitVec 2 := sbox2 s.cfg.s1 (x.extractLsb' 0 4)
    exec (.fk k.val) s =
      .next (ended { s with w := 0#8 ++ (s.w.extractLsb' 4 4 ^^^ permute (n := 4) (va ++ vb) 4 s.cfg.p4) ++ r })

/-- R170: under SPN16, with subkeys and k in 0..`NR_S`, `ARK k` XORs `SK[k]` into `W` and changes nothing else. -/
def Obligations.ArkXorsTheSubkey : Prop :=
  ∀ (s : State) (k : Fin 8), s.var = .spn16 → s.status.skv = true → k.val ≤ s.cfg.nrS →
    exec (.ark k.val) s = .next (ended { s with w := s.w ^^^ s.readReg (.sk k) })

/-- R171 and R172: under SPN16, `NSUB` replaces each nibble x of `W` by `SBOX[x]` and `INSUB` by the y with `SBOX[y]` = x, with
or without subkeys; nothing else changes. Nibble j is bits 19 - 4 j to 16 - 4 j. -/
def Obligations.NibbleSubstitutionsUseTheTable : Prop :=
  ∀ s : State, s.cfg.wellFormed = true → s.var = .spn16 →
    (∃ t, exec .nsub s = .next t ∧ t = ended { s with w := t.w } ∧
      ∀ j, 1 ≤ j → j ≤ 4 →
        (t.w.extractLsb' (16 - 4 * j) 4).toNat = s.cfg.sbox.getD (s.w.extractLsb' (16 - 4 * j) 4).toNat 0) ∧
    (∃ t, exec .insub s = .next t ∧ t = ended { s with w := t.w } ∧
      ∀ j, 1 ≤ j → j ≤ 4 →
        s.cfg.sbox.getD (t.w.extractLsb' (16 - 4 * j) 4).toNat 0 = (s.w.extractLsb' (16 - 4 * j) 4).toNat)

/-- R173 and R174: under SPN16, `SHUF` puts nibble `NPERM[j]` of `W` at nibble j, and `ISHUF` puts nibble j at nibble
`NPERM[j]`, which is what `NPERM_INV` says; nothing else changes. -/
def Obligations.NibbleShufflesMoveNibbles : Prop :=
  ∀ s : State, s.cfg.wellFormed = true → s.var = .spn16 →
    (∃ t, exec .shuf s = .next t ∧ t = ended { s with w := t.w } ∧
      ∀ j, 1 ≤ j → j ≤ 4 → nib t.w j = nib s.w (s.cfg.nperm.getD (j - 1) 0)) ∧
    (∃ t, exec .ishuf s = .next t ∧ t = ended { s with w := t.w } ∧
      ∀ j, 1 ≤ j → j ≤ 4 → nib t.w (s.cfg.nperm.getD (j - 1) 0) = nib s.w j)

/-! ### The key schedule (spec/41_keyschedule.md) -/

/-- R130 to R132: `DERIVE` under FEISTEL8 with a 10-bit key. Slot r = 1..`NR_F` is the compression of both halves of
permute(`KEY[9:0]`, `P10`) rotated by `SHIFT[1]` + ... + `SHIFT[r]` (the rotations accumulate); every other slot is 0; `SKV`
is set; nothing else changes but the stage and the temporaries, which have no defined value (log 6). -/
def Obligations.DeriveFeistelRotatesCumulatively : Prop :=
  ∀ s : State, s.cfg.wellFormed = true → s.var = .feistel8 → s.key.extractLsb' 10 6 = 0 →
    let p : Key10 := permute (s.key.extractLsb' 0 10) 10 s.cfg.p10
    ∃ t, exec .derive s = .next t ∧
      t = ended { s with
        sk := t.sk, status := { s.status with skv := true }, temps := t.temps, draws := t.draws } ∧
      ∀ r : Fin 8, t.readReg (.sk r) =
        if 1 ≤ r.val ∧ r.val ≤ s.cfg.nrF then
          0#8 ++ permute (n := 10)
            (rotl (p.extractLsb' 5 5) (s.cfg.shift.take r.val).sum ++ rotl (p.extractLsb' 0 5) (s.cfg.shift.take r.val).sum)
            8 s.cfg.p8
        else 0x0000

/-- R133: under FEISTEL8 the all-zero key gives all-zero subkeys and the all-one key all-one subkeys, whatever the
tables. -/
def Obligations.ConstantFeistelKeysGiveConstantSubkeys : Prop :=
  ∀ (s t : State) (r : Fin 8), s.cfg.wellFormed = true → s.var = .feistel8 → exec .derive s = .next t →
    1 ≤ r.val → r.val ≤ s.cfg.nrF →
    (s.key = 0x0000 → t.readReg (.sk r) = 0x0000) ∧ (s.key = 0x03FF → t.readReg (.sk r) = 0x00FF)

/-- R130, R134 to R138: `DERIVE` under SPN16, for every key. There are words w with w[0] = `KEY[15:8]`, w[1] = `KEY[7:0]` and the
recurrence of R136; slot r = 0..`NR_S` is w[2r] ++ w[2r+1], every other slot 0; slot 0 is `KEY`; `SKV` is set; nothing else
changes but the stage and the temporaries (log 6). -/
def Obligations.DeriveSpnExpandsWords : Prop :=
  ∀ s : State, s.var = .spn16 →
    ∃ (t : State) (w : Nat → Byte), exec .derive s = .next t ∧
      t = ended { s with
        sk := t.sk, status := { s.status with skv := true }, temps := t.temps, draws := t.draws } ∧
      w 0 = s.key.extractLsb' 8 8 ∧ w 1 = s.key.extractLsb' 0 8 ∧
      (∀ i, 2 ≤ i → i ≤ 2 * s.cfg.nrS + 1 →
        w i =
          if s.cfg.kswAllG = true ∨ i % 2 = 0 then
            let x : Byte := rotl (w (i - 1)) s.cfg.grot
            w (i - 2) ^^^ ((sub4 s.cfg.sbox (x.extractLsb' 4 4) ++ sub4 s.cfg.sbox (x.extractLsb' 0 4)) ^^^
              BitVec.ofNat 8 (s.cfg.rcon.getD (i / 2 - 1) 0))
          else w (i - 2) ^^^ w (i - 1)) ∧
      (∀ r : Fin 8, t.readReg (.sk r) = if r.val ≤ s.cfg.nrS then w (2 * r.val) ++ w (2 * r.val + 1) else 0x0000) ∧
      t.readReg (.sk 0) = s.key

/-! ### The pipeline (spec/44_pipeline.md) -/

/-- R195 and R196: under FEISTEL8, with subkeys and an 8-bit block, `ENCRYPT` is the nested formula of initial permutation,
rounds with a swap between every two of them, and final permutation, with the subkeys 1..`NR_F`, and `DECRYPT` the same with
the subkeys in reverse order; `W` and `DOUT` are left holding the result, nothing else changes but the stage (log 6). -/
def Obligations.FeistelPipelineIsTheNestedFormula : Prop :=
  ∀ s : State, s.cfg.wellFormed = true → s.var = .feistel8 → s.status.skv = true → s.din.extractLsb' 8 8 = 0 →
    (∃ (t : State) (x : Nat → Byte), exec .encrypt s = .next t ∧
      x 1 = feistelRound s.cfg (permute (s.din.extractLsb' 0 8 : Byte) 8 s.cfg.ip) (subkeyByte s 1) ∧
      (∀ r, 1 ≤ r → r < s.cfg.nrF → x (r + 1) = feistelRound s.cfg (swapHalves (x r)) (subkeyByte s (r + 1))) ∧
      t.w = 0#8 ++ permute (x s.cfg.nrF) 8 s.cfg.fp ∧ t.dout = t.w ∧
      t = ended { s with w := t.w, dout := t.dout, temps := t.temps, draws := t.draws }) ∧
    (∃ (t : State) (x : Nat → Byte), exec .decrypt s = .next t ∧
      x s.cfg.nrF =
        feistelRound s.cfg (permute (s.din.extractLsb' 0 8 : Byte) 8 s.cfg.ip) (subkeyByte s s.cfg.nrF) ∧
      (∀ r, 1 ≤ r → r < s.cfg.nrF → x r = feistelRound s.cfg (swapHalves (x (r + 1))) (subkeyByte s r)) ∧
      t.w = 0#8 ++ permute (x 1) 8 s.cfg.fp ∧ t.dout = t.w ∧
      t = ended { s with w := t.w, dout := t.dout, temps := t.temps, draws := t.draws })

/-- R197 and R198: under SPN16, with subkeys, `ENCRYPT` is `NR_S` rounds of key addition, substitution and shuffle and a last
key addition, and `DECRYPT` mirrors it with the inverse layers and the subkeys in reverse order; `W` and `DOUT` are left
holding the result, nothing else changes but the stage (log 6). -/
def Obligations.SpnPipelineIsTheLayeredRounds : Prop :=
  ∀ s : State, s.cfg.wellFormed = true → s.var = .spn16 → s.status.skv = true →
    (∃ (t : State) (x : Nat → Word), exec .encrypt s = .next t ∧ x 0 = s.din ∧
      (∀ r, r < s.cfg.nrS → x (r + 1) = shuffleNibbles s.cfg.nperm (subNibbles s.cfg.sbox (x r ^^^ subkey s r))) ∧
      t.w = x s.cfg.nrS ^^^ subkey s s.cfg.nrS ∧ t.dout = t.w ∧
      t = ended { s with w := t.w, dout := t.dout, temps := t.temps, draws := t.draws }) ∧
    (∃ (t : State) (x : Nat → Word), exec .decrypt s = .next t ∧ x s.cfg.nrS = s.din ∧
      (∀ r, 1 ≤ r → r ≤ s.cfg.nrS → x (r - 1) =
        shuffleNibbles (inversePositions 4 s.cfg.nperm) (subNibbles (inverseSbox s.cfg.sbox) (x r ^^^ subkey s r))) ∧
      t.w = x 0 ^^^ subkey s 0 ∧ t.dout = t.w ∧
      t = ended { s with w := t.w, dout := t.dout, temps := t.temps, draws := t.draws })

/-- R199: if `ENCRYPT` with `DIN` = p ends with `DOUT` = c, then `DECRYPT` with `DIN` = c ends with `DOUT` = p, and the other
way round (`ERR` unchanged says that the first ran), whatever happened in between that kept the Subkey Set (and with it the variant): for every well-formed
configuration, under either variant, for every block that fits it. -/
def Obligations.DecryptAndEncryptUndoEachOther : Prop :=
  ∀ s : State, s.cfg.wellFormed = true → s.status.skv = true → dinFits s →
    ∀ p ∈ [(Instr.encrypt, Instr.decrypt), (Instr.decrypt, Instr.encrypt)],
      ∃ t, exec p.1 s = .next t ∧ t.status.err = s.status.err ∧
        ∀ s' : State, s'.cfg = s.cfg → s'.var = s.var → s'.sk = s.sk → s'.status.skv = true → s'.din = t.dout →
          ∃ u, exec p.2 s' = .next u ∧ u.dout = s.din

/-- R200: for a fixed Subkey Set two different plaintexts give two different ciphertexts. -/
def Obligations.DistinctPlaintextsGiveDistinctCiphertexts : Prop :=
  ∀ (s t u : State) (p q : Word), s.cfg.wellFormed = true → s.status.skv = true →
    dinFits { s with din := p } → dinFits { s with din := q } → p ≠ q →
    exec .encrypt { s with din := p } = .next t → exec .encrypt { s with din := q } = .next u → t.dout ≠ u.dout

/-- R201: a host that issues the stages of a composite command one at a time, each run to its end, ends with the same `W`,
`DOUT`, `SK` and `STATUS` as the composite command gives. The host's accesses and the turns are one list each (log 7). -/
def Obligations.StagesOneByOneEqualTheCompositeCommand : Prop :=
  ∀ s : State, s.cfg.wellFormed = true → s.rst = false → s.seq = .idle → s.status.busy = false →
    s.status.skv = true → dinFits s →
    ∀ p ∈ [(Instr.encrypt, encryptStages s.cfg s.var), (Instr.decrypt, decryptStages s.cfg s.var)],
      let separate := p.2.flatMap fun i => [Input.write 0 (encode i), Input.sequencer]
      ∃ t u, Host.Core.run core separate.length { s with inputs := separate } = .next t ∧
        Host.Core.run core 2 { s with inputs := [.write 0 (encode p.1), .sequencer] } = .next u ∧
        t.w = u.w ∧ t.dout = u.dout ∧ t.sk = u.sk ∧ t.status = u.status

/-- R156: fk(b, k) = (b[7:4] xor F(b[3:0], k)) ++ b[3:0] is an involution, for every configuration; so `FK k` twice restores an
8-bit working block. -/
def Obligations.FeistelRoundIsAnInvolution : Prop :=
  (∀ (c : Configuration) (b k : Byte),
    feistelRound c b k = (b.extractLsb' 4 4 ^^^ feistelF c (b.extractLsb' 0 4) k) ++ b.extractLsb' 0 4 ∧
    feistelRound c (feistelRound c b k) k = b) ∧
  (∀ (s : State) (k : Fin 8), s.var = .feistel8 → s.status.skv = true → 1 ≤ k.val → k.val ≤ s.cfg.nrF →
    s.w.extractLsb' 8 8 = 0 →
    ∃ t u, exec (.fk k.val) s = .next t ∧ exec (.fk k.val) t = .next u ∧ u.w = s.w)

/-- R157: `SWAP` twice, `FP` after `IP` and `IP` after `FP` restore an 8-bit working block. -/
def Obligations.SwapAndPermutationsUndoEachOther : Prop :=
  ∀ s : State, s.cfg.wellFormed = true → s.var = .feistel8 → s.w.extractLsb' 8 8 = 0 →
    (∃ t u, exec .swap s = .next t ∧ exec .swap t = .next u ∧ u.w = s.w) ∧
    (∃ t u, exec .ip s = .next t ∧ exec .fp t = .next u ∧ u.w = s.w) ∧
    (∃ t u, exec .fp s = .next t ∧ exec .ip t = .next u ∧ u.w = s.w)

/-- R176: `NSUB` and `SHUF` commute, and `INSUB` and `ISHUF`. -/
def Obligations.SubstitutionAndShuffleCommute : Prop :=
  ∀ s : State, s.cfg.wellFormed = true → s.var = .spn16 →
    (∃ t₁ t₂ u₁ u₂, exec .nsub s = .next t₁ ∧ exec .shuf t₁ = .next t₂ ∧
      exec .shuf s = .next u₁ ∧ exec .nsub u₁ = .next u₂ ∧ t₂.w = u₂.w) ∧
    (∃ t₁ t₂ u₁ u₂, exec .insub s = .next t₁ ∧ exec .ishuf t₁ = .next t₂ ∧
      exec .ishuf s = .next u₁ ∧ exec .insub u₁ = .next u₂ ∧ t₂.w = u₂.w)

/-- R177: `INSUB` and `NSUB`, and `ISHUF` and `SHUF`, undo each other in both orders, on every 16-bit value. -/
def Obligations.SpnLayersUndoEachOther : Prop :=
  ∀ s : State, s.cfg.wellFormed = true → s.var = .spn16 →
    ∀ p ∈ [(Instr.nsub, Instr.insub), (Instr.insub, Instr.nsub), (Instr.shuf, Instr.ishuf), (Instr.ishuf, Instr.shuf)],
      ∃ t u, exec p.1 s = .next t ∧ exec p.2 t = .next u ∧ u.w = s.w

/-! ### Errors (spec/60_exceptions.md) -/

/-- R223: the lowest-numbered check that fails is the one the sequencer's step reports, with the effect of R221, and a
command that fails none runs: `ERR` keeps the 0 of the accepted write. -/
def Obligations.ChecksAreReportedInOrder : Prop :=
  ∀ s : State, s.seq = .run →
    (∀ e, decode s.cmd = .error e → runSequencer s = .next (failed 1 s)) ∧
    (∀ i, decode s.cmd = .ok i →
      let badMode := (s.var = .spn16 ∧ (i = .ip ∨ i = .fp ∨ (∃ k, i = .fk k) ∨ i = .swap)) ∨
        (s.var = .feistel8 ∧ ((∃ k, i = .ark k) ∨ i = .nsub ∨ i = .insub ∨ i = .shuf ∨ i = .ishuf))
      let badIndex := (∃ k, i = .fk k ∧ ¬(1 ≤ k ∧ k ≤ s.cfg.nrF)) ∨ (∃ k, i = .ark k ∧ ¬(k ≤ s.cfg.nrS))
      let noKey := ((∃ k, i = .fk k) ∨ (∃ k, i = .ark k) ∨ i = .encrypt ∨ i = .decrypt) ∧ s.status.skv = false
      let badLength := s.var = .feistel8 ∧
        ((i = .derive ∧ s.key.extractLsb' 10 6 ≠ 0) ∨
          ((i = .loadw ∨ i = .encrypt ∨ i = .decrypt) ∧ s.din.extractLsb' 8 8 ≠ 0))
      (badMode → runSequencer s = .next (failed 2 s)) ∧
      (¬badMode → badIndex → runSequencer s = .next (failed 3 s)) ∧
      (¬badMode → ¬badIndex → noKey → runSequencer s = .next (failed 4 s)) ∧
      (¬badMode → ¬badIndex → ¬noKey → badLength → runSequencer s = .next (failed 5 s)) ∧
      (¬badMode → ¬badIndex → ¬noKey → ¬badLength → ∃ t, runSequencer s = .next t ∧ t.status.err = s.status.err))

/-- R221: a command that ends with an error code it did not start with changes `STATUS` and the sequencer's phase only, and
the word stays in `CMD`. -/
def Obligations.ErrorsChangeOnlyStatus : Prop :=
  ∀ (i : Instr) (s t : State), exec i s = .next t → t.status.err ≠ s.status.err → t = failed t.status.err s

/-- R26: a `DERIVE` that passes its checks sets `SKV`, and nothing else does; a reset step and an accepted `MODE` write clear
it, and nothing else does; and a command that reads subkeys has no effect while `SKV` = 0: where no check before it fails
(R223), it ends with code 4. The turns come from the list of inputs (log 7), and the edges with `rst` = 1
are the model's reading (log 8). -/
def Obligations.SkvIsSetByDeriveAndClearedByModeAndReset : Prop :=
  (∀ s : State, keyFits s → ∃ t, exec .derive s = .next t ∧ t.status.skv = true) ∧
  (∀ s t : State, step s = .next t → s.status.skv = false → t.status.skv = true →
    (s.inputs = [] ∨ ∃ es, s.inputs = .sequencer :: es) ∧ s.seq = .run ∧ s.rst = false ∧ decode s.cmd = .ok .derive ∧
      keyFits s) ∧
  (∀ (s : State) (level : Bool) (v : Word),
    (s.rst = true → ∃ t, sequencerTurn s = .next t ∧ t.status.skv = false) ∧
    (s.status.busy = false → (memWrite 2 v s).status.skv = false) ∧
    (driveRst level s).status.skv = (s.status.skv && !level)) ∧
  (∀ s t : State, step s = .next t → s.status.skv = true → t.status.skv = false →
    (∃ es, s.inputs = .rst true :: es) ∨
    (s.rst = true ∧ (s.inputs = [] ∨ ∃ es, s.inputs = .sequencer :: es)) ∨
    (∃ v es, s.inputs = .write 2 v :: es ∧ s.rst = false ∧ s.status.busy = false)) ∧
  (∀ (s : State) (i : Instr), s.status.skv = false → readsSubkeys i = true →
    ∃ code, code ≠ 0 ∧ exec i s = .next (failed code s) ∧
      ((i.feistelOnly = true → s.var = .feistel8) → (i.spnOnly = true → s.var = .spn16) →
        kOutOfRange s.cfg i = false → code = 4))

/-- R27: only the sequencer's step of a `DERIVE` whose key fits writes `SK`, apart from a reset step (turns and edges: logs 7,
8). -/
def Obligations.OnlyDeriveAndResetWriteSubkeys : Prop :=
  ∀ s t : State, step s = .next t → t.sk ≠ s.sk →
    ((s.inputs = [] ∨ ∃ es, s.inputs = .sequencer :: es) ∧ s.seq = .run ∧ s.rst = false ∧ decode s.cmd = .ok .derive ∧
      keyFits s) ∨
    (∃ es, s.inputs = .rst true :: es) ∨
    (s.rst = true ∧ (s.inputs = [] ∨ ∃ es, s.inputs = .sequencer :: es))

/-- R16: the registers a command leaves are a function of the configuration, the registers and the command alone: not of the
stage and the temporaries, the free values drawn so far, the answers given, the turns to come or the phase. -/
def Obligations.CommandResultsDependOnRegistersOnly : Prop :=
  ∀ (i : Instr) (s s' : State), s'.cfg = s.cfg → s'.status = s.status → s'.var = s.var → s'.key = s.key → s'.din = s.din →
    s'.dout = s.dout → s'.w = s.w → s'.sk = s.sk →
    ∃ t t', exec i s = .next t ∧ exec i s' = .next t' ∧
      t'.cfg = t.cfg ∧ t'.status = t.status ∧ t'.var = t.var ∧ t'.key = t.key ∧ t'.din = t.din ∧ t'.dout = t.dout ∧
      t'.w = t.w ∧ t'.sk = t.sk

/-- R262: only `DERIVE` reads `KEY`: any other command does the same with another value in `KEY`. -/
def Obligations.OnlyDeriveReadsTheKey : Prop :=
  ∀ (i : Instr) (s : State) (v : Word), i ≠ .derive →
    ∃ t, exec i s = .next t ∧ exec i { s with key := v } = .next { t with key := v }

/-! ### The register port (spec/20_memory.md) -/

/-- R62: a host access is one turn, complete before the next (the list is the model's, log 7), and has the effect of the
register port's read or write. While `rst` = 1 it is ignored (R250); that an ignored read gives no answer on `rdata` is the
model's deduction, which the spec does not say (log 8). -/
def Obligations.HostAccessIsOneStep : Prop :=
  ∀ (s : State) (i : RegIndex) (v : Word) (es : List Input), s.cfg.wellFormed = true →
    (s.inputs = .read i :: es →
      (s.rst = false → step s = .next (memRead i { s with inputs := es })) ∧
      (s.rst = true → step s = .next { s with inputs := es })) ∧
    (s.inputs = .write i v :: es →
      (s.rst = false → step s = .next (memWrite i v { s with inputs := es })) ∧
      (s.rst = true → step s = .next { s with inputs := es }))

/-- R55: a `CMD` write while idle is accepted, whatever the word, and the sequencer then executes the word; a reserved
encoding is refused only there. -/
def Obligations.CmdWriteIsAcceptedWhileIdle : Prop :=
  ∀ (s : State) (v : Word), s.status.busy = false →
    memWrite 0 v s = { s with
      cmd := v, status := { s.status with busy := true, done := false, err := 0 }, seq := .run } ∧
    (∀ i, decode v = .ok i → runSequencer (memWrite 0 v s) = exec i (memWrite 0 v s)) ∧
    (∀ e, decode v = .error e → runSequencer (memWrite 0 v s) = .next (failed 1 (memWrite 0 v s)))

/-- R54 with the effects of R24: `MODE`, `KEY` and `DIN` writes while idle. `MODE` takes bit 0, clears `SKV` and `W`, whether
or not the variant changes, and reads back as `zext_16(VAR)`. No command starts. -/
def Obligations.ModeKeyAndDinWritesWhileIdle : Prop :=
  ∀ (s : State) (v : Word), s.status.busy = false →
    (∃ t, memWrite 2 v s = t ∧
      t = { s with var := t.var, status := { s.status with skv := false }, w := 0x0000 } ∧
      t.readReg .mode = (v.extractLsb' 0 1).zeroExtend 16) ∧
    memWrite 3 v s = { s with key := v } ∧ memWrite 4 v s = { s with din := v }

/-- R56: writes of `CMD`, `MODE`, `KEY` and `DIN` while busy are dropped and set `OVR`; so no host access changes the operands
of the running command. -/
def Obligations.WritesWhileBusyAreDropped : Prop :=
  ∀ (s : State) (i : RegIndex) (v : Word), s.status.busy = true →
    ((i = 0 ∨ i = 2 ∨ i = 3 ∨ i = 4) → memWrite i v s = { s with status := { s.status with ovr := true } }) ∧
    ∀ t, t = memWrite i v s ∨ t = memRead i s →
      t.cmd = s.cmd ∧ t.var = s.var ∧ t.key = s.key ∧ t.din = s.din ∧ t.sk = s.sk ∧ t.status.busy = true ∧ t.seq = s.seq

/-- R58: a write of `STATUS` is honoured busy or not, and clears `OVR` exactly when bit 3 is 1; writes of `DOUT`, `W`, index 7
and `SK` have no effect at all. -/
def Obligations.StatusAndReadOnlyWrites : Prop :=
  ∀ (s : State) (v : Word),
    (v.getLsbD 3 = true → memWrite 1 v s = { s with status := { s.status with ovr := false } }) ∧
    (v.getLsbD 3 = false → memWrite 1 v s = s) ∧
    (∀ i : RegIndex, 5 ≤ i.toNat → memWrite i v s = s)

/-- R66: the host has no way to write `DOUT`, `SK` or, but for the clearing by a `MODE` write, `W`; and its reads change no
register. -/
def Obligations.HostAccessesNeverWriteResults : Prop :=
  ∀ (s : State) (i : RegIndex) (v : Word),
    ((memWrite i v s).dout = s.dout ∧ (memWrite i v s).sk = s.sk ∧
      ((memWrite i v s).w = s.w ∨ (i = 2 ∧ (memWrite i v s).w = 0x0000 ∧ (memWrite i v s).status.skv = false))) ∧
    (∃ rdata draws, memRead i s = { s with rdata := rdata, draws := draws })

/-- R53: what each index answers: the stored word, and 0 at index 7; while busy `W`, `DOUT` and `SK` answer a value of their own
(R57), the free value drawn for this read (log 4), the other indices the stored word. The answer goes to `rdata` (log 9). -/
def Obligations.ReadsAnswerTheStoredWord : Prop :=
  ∀ (s : State) (i : RegIndex),
    (s.status.busy = false ∨ i.toNat ≤ 4 ∨ i = 7 →
      memRead i s = { s with rdata := s.readReg (regAt i) :: s.rdata }) ∧
    (s.status.busy = true → (i = 5 ∨ i = 6 ∨ 8 ≤ i.toNat) →
      memRead i s = { s with rdata := Config.freeWord s.draws :: s.rdata, draws := s.draws + 1 }) ∧
    (s.readReg (regAt 0) = s.cmd ∧ s.readReg (regAt 1) = s.readReg .status ∧
      s.readReg (regAt 2) = (match s.var with | .feistel8 => 0x0000 | .spn16 => 0x0001) ∧
      s.readReg (regAt 3) = s.key ∧ s.readReg (regAt 4) = s.din ∧ s.readReg (regAt 5) = s.dout ∧
      s.readReg (regAt 6) = s.w ∧ s.readReg (regAt 7) = 0x0000 ∧
      ∀ k : Fin 8, s.readReg (regAt (BitVec.ofNat 4 (8 + k.val))) = s.sk[k])

/-- R22: the fields of `STATUS` as a host reads them. -/
def Obligations.StatusReadsItsFields : Prop :=
  ∀ s : State, s.readReg (regAt 1) = s.readReg .status ∧
    (s.readReg .status).getLsbD 0 = s.status.busy ∧ (s.readReg .status).getLsbD 1 = s.status.done ∧
    (s.readReg .status).getLsbD 2 = s.status.skv ∧ (s.readReg .status).getLsbD 3 = s.status.ovr ∧
    (s.readReg .status).extractLsb' 4 3 = s.status.err ∧ (s.readReg .status).extractLsb' 7 9 = 0

/-- R80: `RUN c` (a `CMD` write, then polls until `BUSY` = 0) has exactly the effect of the command on the state after the
accepted write, whatever the number of polls that see `BUSY` = 1 (latency; `WAIT` as polls and a turn is the model's form, logs 7, 21). -/
def Obligations.RunPseudoInstructionHasTheCommandsEffect : Prop :=
  ∀ (s : State) (i : Instr) (polls : Nat), s.cfg.wellFormed = true → s.rst = false → s.seq = .idle →
    s.status.busy = false → i.wellFormed = true →
    ∃ t, exec i { s with
        cmd := encode i, status := { s.status with busy := true, done := false, err := 0 }, seq := .run, inputs := [] } =
        .next t ∧
      Host.Core.run core (polls + 3) { s with inputs := lineInputs (.run i polls) } =
        .next { t with rdata := t.readReg .status ::
          (List.replicate polls (statusWord { s.status with busy := true, done := false, err := 0 }) ++ t.rdata) }

/-! ### Reset (spec/70_reset_and_hazards.md) -/

/-- R250: with `rst` = 1 at an edge the core takes the reset step, a running command is abandoned, and `SK` holds some values;
driving `rst` low changes nothing else. The edges are turns of the list (log 7, log 8); the stage and the temporaries hold
some values (log 6). Host accesses while `rst` = 1: `HostAccessIsOneStep`. -/
def Obligations.ResetStepClearsEveryRegister : Prop :=
  ∀ (s : State) (es : List Input), s.cfg.wellFormed = true →
    (s.inputs = .rst true :: es ∨ (s.rst = true ∧ (s.inputs = .sequencer :: es ∨ (s.inputs = [] ∧ es = []))) →
      ∃ t, step s = .next t ∧
        t = { State.reset with
          cfg := s.cfg, sk := t.sk, temps := t.temps, rst := true, rdata := s.rdata, inputs := es, draws := t.draws }) ∧
    (s.inputs = .rst false :: es → step s = .next { s with inputs := es, rst := false })

/-- R251: the reset value of every piece of state the spec gives one for. -/
def Obligations.ResetStateHasTheResetValues : Prop :=
  State.reset.cmd = 0x0000 ∧ State.reset.status.busy = false ∧ State.reset.status.done = false ∧
  State.reset.status.skv = false ∧ State.reset.status.ovr = false ∧ State.reset.status.err = 0 ∧
  State.reset.readReg .status = 0x0000 ∧ State.reset.var = .feistel8 ∧ State.reset.readReg .mode = 0x0000 ∧
  State.reset.key = 0x0000 ∧ State.reset.din = 0x0000 ∧ State.reset.dout = 0x0000 ∧ State.reset.w = 0x0000 ∧
  State.reset.readReg .reserved = 0x0000 ∧ State.reset.seq = .idle

/-! ### Datapath and configuration (spec/40_datapath.md) -/

/-- R112: the reference configuration passes every check, and its `FP` is `IP_INV`. -/
def Obligations.ReferenceConfigurationIsWellFormed : Prop :=
  Configuration.reference.wellFormed = true ∧
  Configuration.reference.ip = [2, 6, 3, 1, 4, 8, 5, 7] ∧ Configuration.reference.fp = [4, 1, 3, 5, 7, 2, 8, 6] ∧
  Configuration.reference.fp = inversePositions 8 Configuration.reference.ip

/-- R100: position i of the result holds the input bit at position `pat[i]`, for tables of any length. -/
def Obligations.PermuteMovesBits : Prop :=
  ∀ (n : Nat) (v : BitVec n) (pat : List Nat) (i : Nat), 1 ≤ i → i ≤ pat.length →
    (permute v pat.length pat).getLsbD (pat.length - i) = v.getLsbD (n - pat.getD (i - 1) 0)

/-- R101: bit i goes to bit (i + s) mod n; s = 0 and s = n are the identity, s acts as s mod n; the rule's examples. -/
def Obligations.RotateLeftIsCyclic : Prop :=
  (∀ (n : Nat) (v : BitVec n) (s i : Nat), i < n → (rotl v s).getLsbD ((i + s) % n) = v.getLsbD i) ∧
  (∀ (n : Nat) (v : BitVec n) (s : Nat), rotl v 0 = v ∧ rotl v n = v ∧ rotl v s = rotl v (s % n)) ∧
  rotl (0b10000 : BitVec 5) 1 = 0b00001 ∧ rotl (0b00001 : BitVec 5) 2 = 0b00100

/-- R104 and R105: in a well-formed configuration every table lookup gives the table's own entry, none cut short. -/
def Obligations.TableLookupsGiveTheEntry : Prop :=
  ∀ (c : Configuration) (a : Nibble), c.wellFormed = true →
    let row := 2 * (a.getLsbD 3).toNat + (a.getLsbD 0).toNat
    let col := 2 * (a.getLsbD 2).toNat + (a.getLsbD 1).toNat
    (sbox2 c.s0 a).toNat = (c.s0.getD row []).getD col 0 ∧
    (sbox2 c.s1 a).toNat = (c.s1.getD row []).getD col 0 ∧
    (sub4 c.sbox a).toNat = c.sbox.getD a.toNat 0

/-- R107: the computed inverse tables undo the tables of a well-formed configuration, and `FP` is `IP_INV` (R111 check 6). -/
def Obligations.InverseTablesUndoTheTables : Prop :=
  ∀ c : Configuration, c.wellFormed = true →
    (∀ x, x < 16 → (inverseSbox c.sbox).getD (c.sbox.getD x 0) 16 = x) ∧
    (∀ j, 1 ≤ j → j ≤ 4 → (inversePositions 4 c.nperm).getD (c.nperm.getD (j - 1) 0 - 1) 0 = j) ∧
    (∀ i, 1 ≤ i → i ≤ 8 → (inversePositions 8 c.ip).getD (c.ip.getD (i - 1) 0 - 1) 0 = i) ∧
    c.fp = inversePositions 8 c.ip

/-! ### The result-read hazard (spec/70_reset_and_hazards.md) -/

/-- R261 and R62: while a command runs, a step that leaves it running brings out nothing of its result: `DONE`, `ERR`, `SKV`,
`W`, `DOUT`, `SK` and the command's operands stay. What `DONE` and `ERR` hold meanwhile is what the accepted write left, 0
(R22, R55; against R261's wording, log 12). The turns come from the model's list (log 7). -/
def Obligations.ResultsAppearOnlyWithTheCommandsStep : Prop :=
  ∀ s t : State, s.seq = .run → s.status.busy = true → step s = .next t → t.seq = .run →
    t = { s with
      status := { s.status with ovr := t.status.ovr }, rst := t.rst, rdata := t.rdata, inputs := t.inputs, draws := t.draws }
end

