-- ==== Sys2Proof/Laws/State.lean ====
section
/-! SUPPORT. One lemma per field per update, each true by rfl, so that no later proof unfolds a record update. -/

namespace Sys2Proof.Machine

variable (s : State) (st : Status)

/-! ### `State.setW` -/

@[simp] theorem State.setW_cfg (v : Word) : (s.setW v).cfg = s.cfg := rfl
@[simp] theorem State.setW_cmd (v : Word) : (s.setW v).cmd = s.cmd := rfl
@[simp] theorem State.setW_status (v : Word) : (s.setW v).status = s.status := rfl
@[simp] theorem State.setW_var (v : Word) : (s.setW v).var = s.var := rfl
@[simp] theorem State.setW_key (v : Word) : (s.setW v).key = s.key := rfl
@[simp] theorem State.setW_din (v : Word) : (s.setW v).din = s.din := rfl
@[simp] theorem State.setW_dout (v : Word) : (s.setW v).dout = s.dout := rfl
@[simp] theorem State.setW_w (v : Word) : (s.setW v).w = v := rfl
@[simp] theorem State.setW_sk (v : Word) : (s.setW v).sk = s.sk := rfl
@[simp] theorem State.setW_seq (v : Word) : (s.setW v).seq = s.seq := rfl
@[simp] theorem State.setW_temps (v : Word) : (s.setW v).temps = s.temps := rfl
@[simp] theorem State.setW_rst (v : Word) : (s.setW v).rst = s.rst := rfl
@[simp] theorem State.setW_rdata (v : Word) : (s.setW v).rdata = s.rdata := rfl
@[simp] theorem State.setW_inputs (v : Word) : (s.setW v).inputs = s.inputs := rfl
@[simp] theorem State.setW_draws (v : Word) : (s.setW v).draws = s.draws := rfl

/-! ### `State.setDout` -/

@[simp] theorem State.setDout_cfg (v : Word) : (s.setDout v).cfg = s.cfg := rfl
@[simp] theorem State.setDout_cmd (v : Word) : (s.setDout v).cmd = s.cmd := rfl
@[simp] theorem State.setDout_status (v : Word) : (s.setDout v).status = s.status := rfl
@[simp] theorem State.setDout_var (v : Word) : (s.setDout v).var = s.var := rfl
@[simp] theorem State.setDout_key (v : Word) : (s.setDout v).key = s.key := rfl
@[simp] theorem State.setDout_din (v : Word) : (s.setDout v).din = s.din := rfl
@[simp] theorem State.setDout_dout (v : Word) : (s.setDout v).dout = v := rfl
@[simp] theorem State.setDout_w (v : Word) : (s.setDout v).w = s.w := rfl
@[simp] theorem State.setDout_sk (v : Word) : (s.setDout v).sk = s.sk := rfl
@[simp] theorem State.setDout_seq (v : Word) : (s.setDout v).seq = s.seq := rfl
@[simp] theorem State.setDout_temps (v : Word) : (s.setDout v).temps = s.temps := rfl
@[simp] theorem State.setDout_rst (v : Word) : (s.setDout v).rst = s.rst := rfl
@[simp] theorem State.setDout_rdata (v : Word) : (s.setDout v).rdata = s.rdata := rfl
@[simp] theorem State.setDout_inputs (v : Word) : (s.setDout v).inputs = s.inputs := rfl
@[simp] theorem State.setDout_draws (v : Word) : (s.setDout v).draws = s.draws := rfl

/-! ### `State.setSk` -/

@[simp] theorem State.setSk_cfg (f : Vector Word 8) : (s.setSk f).cfg = s.cfg := rfl
@[simp] theorem State.setSk_cmd (f : Vector Word 8) : (s.setSk f).cmd = s.cmd := rfl
@[simp] theorem State.setSk_status (f : Vector Word 8) : (s.setSk f).status = s.status := rfl
@[simp] theorem State.setSk_var (f : Vector Word 8) : (s.setSk f).var = s.var := rfl
@[simp] theorem State.setSk_key (f : Vector Word 8) : (s.setSk f).key = s.key := rfl
@[simp] theorem State.setSk_din (f : Vector Word 8) : (s.setSk f).din = s.din := rfl
@[simp] theorem State.setSk_dout (f : Vector Word 8) : (s.setSk f).dout = s.dout := rfl
@[simp] theorem State.setSk_w (f : Vector Word 8) : (s.setSk f).w = s.w := rfl
@[simp] theorem State.setSk_sk (f : Vector Word 8) : (s.setSk f).sk = f := rfl
@[simp] theorem State.setSk_seq (f : Vector Word 8) : (s.setSk f).seq = s.seq := rfl
@[simp] theorem State.setSk_temps (f : Vector Word 8) : (s.setSk f).temps = s.temps := rfl
@[simp] theorem State.setSk_rst (f : Vector Word 8) : (s.setSk f).rst = s.rst := rfl
@[simp] theorem State.setSk_rdata (f : Vector Word 8) : (s.setSk f).rdata = s.rdata := rfl
@[simp] theorem State.setSk_inputs (f : Vector Word 8) : (s.setSk f).inputs = s.inputs := rfl
@[simp] theorem State.setSk_draws (f : Vector Word 8) : (s.setSk f).draws = s.draws := rfl

/-! ### `State.setSkv` -/

@[simp] theorem State.setSkv_cfg : (s.setSkv).cfg = s.cfg := rfl
@[simp] theorem State.setSkv_cmd : (s.setSkv).cmd = s.cmd := rfl
@[simp] theorem State.setSkv_status : (s.setSkv).status = { s.status with skv := true } := rfl
@[simp] theorem State.setSkv_var : (s.setSkv).var = s.var := rfl
@[simp] theorem State.setSkv_key : (s.setSkv).key = s.key := rfl
@[simp] theorem State.setSkv_din : (s.setSkv).din = s.din := rfl
@[simp] theorem State.setSkv_dout : (s.setSkv).dout = s.dout := rfl
@[simp] theorem State.setSkv_w : (s.setSkv).w = s.w := rfl
@[simp] theorem State.setSkv_sk : (s.setSkv).sk = s.sk := rfl
@[simp] theorem State.setSkv_seq : (s.setSkv).seq = s.seq := rfl
@[simp] theorem State.setSkv_temps : (s.setSkv).temps = s.temps := rfl
@[simp] theorem State.setSkv_rst : (s.setSkv).rst = s.rst := rfl
@[simp] theorem State.setSkv_rdata : (s.setSkv).rdata = s.rdata := rfl
@[simp] theorem State.setSkv_inputs : (s.setSkv).inputs = s.inputs := rfl
@[simp] theorem State.setSkv_draws : (s.setSkv).draws = s.draws := rfl

/-! ### `State.dropTemps` -/

@[simp] theorem State.dropTemps_cfg : (s.dropTemps).cfg = s.cfg := rfl
@[simp] theorem State.dropTemps_cmd : (s.dropTemps).cmd = s.cmd := rfl
@[simp] theorem State.dropTemps_status : (s.dropTemps).status = s.status := rfl
@[simp] theorem State.dropTemps_var : (s.dropTemps).var = s.var := rfl
@[simp] theorem State.dropTemps_key : (s.dropTemps).key = s.key := rfl
@[simp] theorem State.dropTemps_din : (s.dropTemps).din = s.din := rfl
@[simp] theorem State.dropTemps_dout : (s.dropTemps).dout = s.dout := rfl
@[simp] theorem State.dropTemps_w : (s.dropTemps).w = s.w := rfl
@[simp] theorem State.dropTemps_sk : (s.dropTemps).sk = s.sk := rfl
@[simp] theorem State.dropTemps_seq : (s.dropTemps).seq = s.seq := rfl
@[simp] theorem State.dropTemps_temps : (s.dropTemps).temps = Config.freeTemps s.draws := rfl
@[simp] theorem State.dropTemps_rst : (s.dropTemps).rst = s.rst := rfl
@[simp] theorem State.dropTemps_rdata : (s.dropTemps).rdata = s.rdata := rfl
@[simp] theorem State.dropTemps_inputs : (s.dropTemps).inputs = s.inputs := rfl
@[simp] theorem State.dropTemps_draws : (s.dropTemps).draws = s.draws + 1 := rfl

/-! ### `State.raise` -/

@[simp] theorem State.raise_cfg (e : CmdError) : (s.raise e).cfg = s.cfg := rfl
@[simp] theorem State.raise_cmd (e : CmdError) : (s.raise e).cmd = s.cmd := rfl
@[simp] theorem State.raise_status (e : CmdError) : (s.raise e).status = statusError e s.status := rfl
@[simp] theorem State.raise_var (e : CmdError) : (s.raise e).var = s.var := rfl
@[simp] theorem State.raise_key (e : CmdError) : (s.raise e).key = s.key := rfl
@[simp] theorem State.raise_din (e : CmdError) : (s.raise e).din = s.din := rfl
@[simp] theorem State.raise_dout (e : CmdError) : (s.raise e).dout = s.dout := rfl
@[simp] theorem State.raise_w (e : CmdError) : (s.raise e).w = s.w := rfl
@[simp] theorem State.raise_sk (e : CmdError) : (s.raise e).sk = s.sk := rfl
@[simp] theorem State.raise_seq (e : CmdError) : (s.raise e).seq = s.seq := rfl
@[simp] theorem State.raise_temps (e : CmdError) : (s.raise e).temps = s.temps := rfl
@[simp] theorem State.raise_rst (e : CmdError) : (s.raise e).rst = s.rst := rfl
@[simp] theorem State.raise_rdata (e : CmdError) : (s.raise e).rdata = s.rdata := rfl
@[simp] theorem State.raise_inputs (e : CmdError) : (s.raise e).inputs = s.inputs := rfl
@[simp] theorem State.raise_draws (e : CmdError) : (s.raise e).draws = s.draws := rfl

/-! ### `State.complete` -/

@[simp] theorem State.complete_cfg : (s.complete).cfg = s.cfg := rfl
@[simp] theorem State.complete_cmd : (s.complete).cmd = s.cmd := rfl
@[simp] theorem State.complete_status : (s.complete).status = statusComplete s.status := rfl
@[simp] theorem State.complete_var : (s.complete).var = s.var := rfl
@[simp] theorem State.complete_key : (s.complete).key = s.key := rfl
@[simp] theorem State.complete_din : (s.complete).din = s.din := rfl
@[simp] theorem State.complete_dout : (s.complete).dout = s.dout := rfl
@[simp] theorem State.complete_w : (s.complete).w = s.w := rfl
@[simp] theorem State.complete_sk : (s.complete).sk = s.sk := rfl
@[simp] theorem State.complete_seq : (s.complete).seq = .idle := rfl
@[simp] theorem State.complete_temps : (s.complete).temps = s.temps := rfl
@[simp] theorem State.complete_rst : (s.complete).rst = s.rst := rfl
@[simp] theorem State.complete_rdata : (s.complete).rdata = s.rdata := rfl
@[simp] theorem State.complete_inputs : (s.complete).inputs = s.inputs := rfl
@[simp] theorem State.complete_draws : (s.complete).draws = s.draws := rfl

/-! ### `State.acceptCmd` -/

@[simp] theorem State.acceptCmd_cfg (v : Word) : (s.acceptCmd v).cfg = s.cfg := rfl
@[simp] theorem State.acceptCmd_cmd (v : Word) : (s.acceptCmd v).cmd = v := rfl
@[simp] theorem State.acceptCmd_status (v : Word) : (s.acceptCmd v).status = statusAccept s.status := rfl
@[simp] theorem State.acceptCmd_var (v : Word) : (s.acceptCmd v).var = s.var := rfl
@[simp] theorem State.acceptCmd_key (v : Word) : (s.acceptCmd v).key = s.key := rfl
@[simp] theorem State.acceptCmd_din (v : Word) : (s.acceptCmd v).din = s.din := rfl
@[simp] theorem State.acceptCmd_dout (v : Word) : (s.acceptCmd v).dout = s.dout := rfl
@[simp] theorem State.acceptCmd_w (v : Word) : (s.acceptCmd v).w = s.w := rfl
@[simp] theorem State.acceptCmd_sk (v : Word) : (s.acceptCmd v).sk = s.sk := rfl
@[simp] theorem State.acceptCmd_seq (v : Word) : (s.acceptCmd v).seq = .run := rfl
@[simp] theorem State.acceptCmd_temps (v : Word) : (s.acceptCmd v).temps = s.temps := rfl
@[simp] theorem State.acceptCmd_rst (v : Word) : (s.acceptCmd v).rst = s.rst := rfl
@[simp] theorem State.acceptCmd_rdata (v : Word) : (s.acceptCmd v).rdata = s.rdata := rfl
@[simp] theorem State.acceptCmd_inputs (v : Word) : (s.acceptCmd v).inputs = s.inputs := rfl
@[simp] theorem State.acceptCmd_draws (v : Word) : (s.acceptCmd v).draws = s.draws := rfl

/-! ### `State.dropWrite` -/

@[simp] theorem State.dropWrite_cfg : (s.dropWrite).cfg = s.cfg := rfl
@[simp] theorem State.dropWrite_cmd : (s.dropWrite).cmd = s.cmd := rfl
@[simp] theorem State.dropWrite_status : (s.dropWrite).status = { s.status with ovr := true } := rfl
@[simp] theorem State.dropWrite_var : (s.dropWrite).var = s.var := rfl
@[simp] theorem State.dropWrite_key : (s.dropWrite).key = s.key := rfl
@[simp] theorem State.dropWrite_din : (s.dropWrite).din = s.din := rfl
@[simp] theorem State.dropWrite_dout : (s.dropWrite).dout = s.dout := rfl
@[simp] theorem State.dropWrite_w : (s.dropWrite).w = s.w := rfl
@[simp] theorem State.dropWrite_sk : (s.dropWrite).sk = s.sk := rfl
@[simp] theorem State.dropWrite_seq : (s.dropWrite).seq = s.seq := rfl
@[simp] theorem State.dropWrite_temps : (s.dropWrite).temps = s.temps := rfl
@[simp] theorem State.dropWrite_rst : (s.dropWrite).rst = s.rst := rfl
@[simp] theorem State.dropWrite_rdata : (s.dropWrite).rdata = s.rdata := rfl
@[simp] theorem State.dropWrite_inputs : (s.dropWrite).inputs = s.inputs := rfl
@[simp] theorem State.dropWrite_draws : (s.dropWrite).draws = s.draws := rfl

/-! ### `State.writeMode` -/

@[simp] theorem State.writeMode_cfg (v : Word) : (s.writeMode v).cfg = s.cfg := rfl
@[simp] theorem State.writeMode_cmd (v : Word) : (s.writeMode v).cmd = s.cmd := rfl
@[simp] theorem State.writeMode_status (v : Word) : (s.writeMode v).status = { s.status with skv := false } := rfl
@[simp] theorem State.writeMode_var (v : Word) : (s.writeMode v).var = variantOf v := rfl
@[simp] theorem State.writeMode_key (v : Word) : (s.writeMode v).key = s.key := rfl
@[simp] theorem State.writeMode_din (v : Word) : (s.writeMode v).din = s.din := rfl
@[simp] theorem State.writeMode_dout (v : Word) : (s.writeMode v).dout = s.dout := rfl
@[simp] theorem State.writeMode_w (v : Word) : (s.writeMode v).w = 0x0000 := rfl
@[simp] theorem State.writeMode_sk (v : Word) : (s.writeMode v).sk = s.sk := rfl
@[simp] theorem State.writeMode_seq (v : Word) : (s.writeMode v).seq = s.seq := rfl
@[simp] theorem State.writeMode_temps (v : Word) : (s.writeMode v).temps = s.temps := rfl
@[simp] theorem State.writeMode_rst (v : Word) : (s.writeMode v).rst = s.rst := rfl
@[simp] theorem State.writeMode_rdata (v : Word) : (s.writeMode v).rdata = s.rdata := rfl
@[simp] theorem State.writeMode_inputs (v : Word) : (s.writeMode v).inputs = s.inputs := rfl
@[simp] theorem State.writeMode_draws (v : Word) : (s.writeMode v).draws = s.draws := rfl

/-! ### `State.writeStatus` -/

@[simp] theorem State.writeStatus_cfg (v : Word) : (s.writeStatus v).cfg = s.cfg := rfl
@[simp] theorem State.writeStatus_cmd (v : Word) : (s.writeStatus v).cmd = s.cmd := rfl
@[simp] theorem State.writeStatus_status (v : Word) : (s.writeStatus v).status = statusWrite v s.status := rfl
@[simp] theorem State.writeStatus_var (v : Word) : (s.writeStatus v).var = s.var := rfl
@[simp] theorem State.writeStatus_key (v : Word) : (s.writeStatus v).key = s.key := rfl
@[simp] theorem State.writeStatus_din (v : Word) : (s.writeStatus v).din = s.din := rfl
@[simp] theorem State.writeStatus_dout (v : Word) : (s.writeStatus v).dout = s.dout := rfl
@[simp] theorem State.writeStatus_w (v : Word) : (s.writeStatus v).w = s.w := rfl
@[simp] theorem State.writeStatus_sk (v : Word) : (s.writeStatus v).sk = s.sk := rfl
@[simp] theorem State.writeStatus_seq (v : Word) : (s.writeStatus v).seq = s.seq := rfl
@[simp] theorem State.writeStatus_temps (v : Word) : (s.writeStatus v).temps = s.temps := rfl
@[simp] theorem State.writeStatus_rst (v : Word) : (s.writeStatus v).rst = s.rst := rfl
@[simp] theorem State.writeStatus_rdata (v : Word) : (s.writeStatus v).rdata = s.rdata := rfl
@[simp] theorem State.writeStatus_inputs (v : Word) : (s.writeStatus v).inputs = s.inputs := rfl
@[simp] theorem State.writeStatus_draws (v : Word) : (s.writeStatus v).draws = s.draws := rfl

/-! ### `State.writeKey` -/

@[simp] theorem State.writeKey_cfg (v : Word) : (s.writeKey v).cfg = s.cfg := rfl
@[simp] theorem State.writeKey_cmd (v : Word) : (s.writeKey v).cmd = s.cmd := rfl
@[simp] theorem State.writeKey_status (v : Word) : (s.writeKey v).status = s.status := rfl
@[simp] theorem State.writeKey_var (v : Word) : (s.writeKey v).var = s.var := rfl
@[simp] theorem State.writeKey_key (v : Word) : (s.writeKey v).key = v := rfl
@[simp] theorem State.writeKey_din (v : Word) : (s.writeKey v).din = s.din := rfl
@[simp] theorem State.writeKey_dout (v : Word) : (s.writeKey v).dout = s.dout := rfl
@[simp] theorem State.writeKey_w (v : Word) : (s.writeKey v).w = s.w := rfl
@[simp] theorem State.writeKey_sk (v : Word) : (s.writeKey v).sk = s.sk := rfl
@[simp] theorem State.writeKey_seq (v : Word) : (s.writeKey v).seq = s.seq := rfl
@[simp] theorem State.writeKey_temps (v : Word) : (s.writeKey v).temps = s.temps := rfl
@[simp] theorem State.writeKey_rst (v : Word) : (s.writeKey v).rst = s.rst := rfl
@[simp] theorem State.writeKey_rdata (v : Word) : (s.writeKey v).rdata = s.rdata := rfl
@[simp] theorem State.writeKey_inputs (v : Word) : (s.writeKey v).inputs = s.inputs := rfl
@[simp] theorem State.writeKey_draws (v : Word) : (s.writeKey v).draws = s.draws := rfl

/-! ### `State.writeDin` -/

@[simp] theorem State.writeDin_cfg (v : Word) : (s.writeDin v).cfg = s.cfg := rfl
@[simp] theorem State.writeDin_cmd (v : Word) : (s.writeDin v).cmd = s.cmd := rfl
@[simp] theorem State.writeDin_status (v : Word) : (s.writeDin v).status = s.status := rfl
@[simp] theorem State.writeDin_var (v : Word) : (s.writeDin v).var = s.var := rfl
@[simp] theorem State.writeDin_key (v : Word) : (s.writeDin v).key = s.key := rfl
@[simp] theorem State.writeDin_din (v : Word) : (s.writeDin v).din = v := rfl
@[simp] theorem State.writeDin_dout (v : Word) : (s.writeDin v).dout = s.dout := rfl
@[simp] theorem State.writeDin_w (v : Word) : (s.writeDin v).w = s.w := rfl
@[simp] theorem State.writeDin_sk (v : Word) : (s.writeDin v).sk = s.sk := rfl
@[simp] theorem State.writeDin_seq (v : Word) : (s.writeDin v).seq = s.seq := rfl
@[simp] theorem State.writeDin_temps (v : Word) : (s.writeDin v).temps = s.temps := rfl
@[simp] theorem State.writeDin_rst (v : Word) : (s.writeDin v).rst = s.rst := rfl
@[simp] theorem State.writeDin_rdata (v : Word) : (s.writeDin v).rdata = s.rdata := rfl
@[simp] theorem State.writeDin_inputs (v : Word) : (s.writeDin v).inputs = s.inputs := rfl
@[simp] theorem State.writeDin_draws (v : Word) : (s.writeDin v).draws = s.draws := rfl

/-! ### `State.setInputs` -/

@[simp] theorem State.setInputs_cfg (es : List Input) : (s.setInputs es).cfg = s.cfg := rfl
@[simp] theorem State.setInputs_cmd (es : List Input) : (s.setInputs es).cmd = s.cmd := rfl
@[simp] theorem State.setInputs_status (es : List Input) : (s.setInputs es).status = s.status := rfl
@[simp] theorem State.setInputs_var (es : List Input) : (s.setInputs es).var = s.var := rfl
@[simp] theorem State.setInputs_key (es : List Input) : (s.setInputs es).key = s.key := rfl
@[simp] theorem State.setInputs_din (es : List Input) : (s.setInputs es).din = s.din := rfl
@[simp] theorem State.setInputs_dout (es : List Input) : (s.setInputs es).dout = s.dout := rfl
@[simp] theorem State.setInputs_w (es : List Input) : (s.setInputs es).w = s.w := rfl
@[simp] theorem State.setInputs_sk (es : List Input) : (s.setInputs es).sk = s.sk := rfl
@[simp] theorem State.setInputs_seq (es : List Input) : (s.setInputs es).seq = s.seq := rfl
@[simp] theorem State.setInputs_temps (es : List Input) : (s.setInputs es).temps = s.temps := rfl
@[simp] theorem State.setInputs_rst (es : List Input) : (s.setInputs es).rst = s.rst := rfl
@[simp] theorem State.setInputs_rdata (es : List Input) : (s.setInputs es).rdata = s.rdata := rfl
@[simp] theorem State.setInputs_inputs (es : List Input) : (s.setInputs es).inputs = es := rfl
@[simp] theorem State.setInputs_draws (es : List Input) : (s.setInputs es).draws = s.draws := rfl

/-! ### `State.withCommand` -/

@[simp] theorem State.withCommand_cfg (v : Word) : (s.withCommand v).cfg = s.cfg := rfl
@[simp] theorem State.withCommand_cmd (v : Word) : (s.withCommand v).cmd = v := rfl
@[simp] theorem State.withCommand_status (v : Word) : (s.withCommand v).status = statusAccept s.status := rfl
@[simp] theorem State.withCommand_var (v : Word) : (s.withCommand v).var = s.var := rfl
@[simp] theorem State.withCommand_key (v : Word) : (s.withCommand v).key = s.key := rfl
@[simp] theorem State.withCommand_din (v : Word) : (s.withCommand v).din = s.din := rfl
@[simp] theorem State.withCommand_dout (v : Word) : (s.withCommand v).dout = s.dout := rfl
@[simp] theorem State.withCommand_w (v : Word) : (s.withCommand v).w = s.w := rfl
@[simp] theorem State.withCommand_sk (v : Word) : (s.withCommand v).sk = s.sk := rfl
@[simp] theorem State.withCommand_seq (v : Word) : (s.withCommand v).seq = .run := rfl
@[simp] theorem State.withCommand_temps (v : Word) : (s.withCommand v).temps = s.temps := rfl
@[simp] theorem State.withCommand_rst (v : Word) : (s.withCommand v).rst = false := rfl
@[simp] theorem State.withCommand_rdata (v : Word) : (s.withCommand v).rdata = s.rdata := rfl
@[simp] theorem State.withCommand_inputs (v : Word) : (s.withCommand v).inputs = [] := rfl
@[simp] theorem State.withCommand_draws (v : Word) : (s.withCommand v).draws = s.draws := rfl

/-! ### `statusAccept` -/

@[simp] theorem statusAccept_busy : (statusAccept st).busy = true := rfl
@[simp] theorem statusAccept_done : (statusAccept st).done = false := rfl
@[simp] theorem statusAccept_skv : (statusAccept st).skv = st.skv := rfl
@[simp] theorem statusAccept_ovr : (statusAccept st).ovr = st.ovr := rfl
@[simp] theorem statusAccept_err : (statusAccept st).err = 0 := rfl

/-! ### `statusComplete` -/

@[simp] theorem statusComplete_busy : (statusComplete st).busy = false := rfl
@[simp] theorem statusComplete_done : (statusComplete st).done = true := rfl
@[simp] theorem statusComplete_skv : (statusComplete st).skv = st.skv := rfl
@[simp] theorem statusComplete_ovr : (statusComplete st).ovr = st.ovr := rfl
@[simp] theorem statusComplete_err : (statusComplete st).err = st.err := rfl

/-! ### `statusError` -/

@[simp] theorem statusError_busy (e : CmdError) : (statusError e st).busy = st.busy := rfl
@[simp] theorem statusError_done (e : CmdError) : (statusError e st).done = st.done := rfl
@[simp] theorem statusError_skv (e : CmdError) : (statusError e st).skv = st.skv := rfl
@[simp] theorem statusError_ovr (e : CmdError) : (statusError e st).ovr = st.ovr := rfl
@[simp] theorem statusError_err (e : CmdError) : (statusError e st).err = errorCode e := rfl

/-! ### `statusWrite` -/

@[simp] theorem statusWrite_busy (v : Word) : (statusWrite v st).busy = st.busy := rfl
@[simp] theorem statusWrite_done (v : Word) : (statusWrite v st).done = st.done := rfl
@[simp] theorem statusWrite_skv (v : Word) : (statusWrite v st).skv = st.skv := rfl
@[simp] theorem statusWrite_ovr (v : Word) : (statusWrite v st).ovr = (st.ovr && !v.getLsbD 3) := rfl
@[simp] theorem statusWrite_err (v : Word) : (statusWrite v st).err = st.err := rfl

/-! ### `takeReset` -/

@[simp] theorem takeReset_cfg : (takeReset s).cfg = s.cfg := rfl
@[simp] theorem takeReset_cmd : (takeReset s).cmd = 0x0000 := rfl
@[simp] theorem takeReset_status : (takeReset s).status = Status.reset := rfl
@[simp] theorem takeReset_var : (takeReset s).var = .feistel8 := rfl
@[simp] theorem takeReset_key : (takeReset s).key = 0x0000 := rfl
@[simp] theorem takeReset_din : (takeReset s).din = 0x0000 := rfl
@[simp] theorem takeReset_dout : (takeReset s).dout = 0x0000 := rfl
@[simp] theorem takeReset_w : (takeReset s).w = 0x0000 := rfl
@[simp] theorem takeReset_sk : (takeReset s).sk = (skFile fun k => Config.freeWord (s.draws + k)) := rfl
@[simp] theorem takeReset_seq : (takeReset s).seq = .idle := rfl
@[simp] theorem takeReset_temps : (takeReset s).temps = Config.freeTemps (s.draws + 8) := rfl
@[simp] theorem takeReset_rst : (takeReset s).rst = s.rst := rfl
@[simp] theorem takeReset_rdata : (takeReset s).rdata = s.rdata := rfl
@[simp] theorem takeReset_inputs : (takeReset s).inputs = s.inputs := rfl
@[simp] theorem takeReset_draws : (takeReset s).draws = s.draws + 9 := rfl

end Sys2Proof.Machine
end

