-- ==== Sys2Proof/Laws/Ops.lean ====
section
/-! SUPPORT. What each shared operation can do, said once: the frame a command runs in, the checks, the register port. -/

namespace Sys2Proof.Machine

/-- `runChecked` always answers a next state: the error or the effect, completed. -/
theorem runChecked_next {err : Option CmdError} {effect : State → State} {s t : State}
    (h : runChecked err effect s = .next t) :
    (∃ e, err = some e ∧ t = (s.raise e).complete) ∨ (err = none ∧ t = (effect s).complete) := by
  cases err with
  | none => exact .inr ⟨rfl, (Host.Outcome.next.inj h).symm⟩
  | some e => exact .inl ⟨e, rfl, (Host.Outcome.next.inj h).symm⟩

@[simp] theorem runChecked_none (effect : State → State) (s : State) :
    runChecked none effect s = .next (effect s).complete := rfl

@[simp] theorem runChecked_some (e : CmdError) (effect : State → State) (s : State) :
    runChecked (some e) effect s = .next (s.raise e).complete := rfl

/-- The effect of each command, without its checks. -/
def effectOf : Instr → State → State
  | .derive => deriveEffect
  | .encrypt => encryptEffect
  | .decrypt => decryptEffect
  | i => stageEffect i

/-- Every instruction's meaning is the shared frame around its check and its effect. -/
theorem exec_eq_runChecked (i : Instr) (s : State) : exec i s = runChecked (check i s) (effectOf i) s := by
  cases i <;> rfl

/-- Everything a command can do: fail with the error its check names, or have its effect; then it completes. -/
theorem exec_next {i : Instr} {s t : State} (h : exec i s = .next t) :
    (∃ e, check i s = some e ∧ t = (s.raise e).complete) ∨ (check i s = none ∧ t = (effectOf i s).complete) :=
  runChecked_next (exec_eq_runChecked i s ▸ h)

/-- A command that passes its check has its effect. -/
theorem exec_of_check_none {i : Instr} {s : State} (h : check i s = none) :
    exec i s = .next (effectOf i s).complete := by
  rw [exec_eq_runChecked, h]; rfl

/-- A command that fails its check changes `STATUS` and `SEQ` only. -/
theorem exec_of_check_some {i : Instr} {s : State} {e : CmdError} (h : check i s = some e) :
    exec i s = .next (s.raise e).complete := by
  rw [exec_eq_runChecked, h]; rfl

/-- No command answers a fault or a refusal. -/
theorem exec_answers_next (i : Instr) (s : State) : ∃ t, exec i s = .next t := by
  rw [exec_eq_runChecked]
  cases check i s <;> exact ⟨_, rfl⟩

/-- No check reports `ERR_ILLEGAL`: that error belongs to words that do not decode. -/
theorem check_ne_illegal (i : Instr) (s : State) : check i s ≠ some .illegal := by
  unfold check
  repeat' split
  all_goals simp

/-- A command that passes its check meets every condition R223 lists. -/
theorem check_none {i : Instr} {s : State} (h : check i s = none) :
    (i.feistelOnly = true → s.var = .feistel8) ∧ (i.spnOnly = true → s.var = .spn16) ∧ kOutOfRange s.cfg i = false ∧
      (readsSubkeys i = true → s.status.skv = true) ∧
      (s.var = .feistel8 → readsKey i = true → keyHigh6 s.key = 0) ∧
      (s.var = .feistel8 → readsDin i = true → highByte s.din = 0) := by
  unfold check at h
  repeat' split at h
  all_goals first | contradiction | skip
  cases hv : s.var <;> simp_all

/-- The error codes are 1..5. -/
theorem errorCode_le (e : CmdError) : (errorCode e).toNat ≤ 5 := by cases e <;> decide

/-- A stage writes `W` or `DOUT` and nothing else. -/
theorem stageEffect_frame (i : Instr) (s : State) : ∃ w d, stageEffect i s = (s.setW w).setDout d :=
  ⟨(stageEffect i s).w, (stageEffect i s).dout, by cases i <;> rfl⟩

/-- A sequence of stages writes `W` and `DOUT` and nothing else. -/
theorem runStages_frame (stages : List Instr) (s : State) : ∃ w d, runStages stages s = (s.setW w).setDout d := by
  induction stages generalizing s with
  | nil => exact ⟨s.w, s.dout, rfl⟩
  | cons i rest ih =>
    obtain ⟨w, d, h⟩ := stageEffect_frame i s
    obtain ⟨w', d', h'⟩ := ih (stageEffect i s)
    exact ⟨w', d', by rw [show runStages (i :: rest) s = runStages rest (stageEffect i s) from rfl, h', h]; rfl⟩

/-- Stages in two parts. -/
theorem runStages_append (xs ys : List Instr) (s : State) :
    runStages (xs ++ ys) s = runStages ys (runStages xs s) := List.foldl_append ..

/-- The effect of a command writes at most `W`, `DOUT`, `SK`, `SKV`, the sequencer's temporaries and the count of draws;
only `DERIVE` writes `SK` and `SKV`, and only the composite commands the temporaries. -/
theorem effectOf_frame (i : Instr) (s : State) :
    ∃ w d sk skv tm dr,
      effectOf i s = { s with
        w := w, dout := d, sk := sk, status := { s.status with skv := skv }, temps := tm, draws := dr } ∧
      (i ≠ .derive → sk = s.sk ∧ skv = s.status.skv) ∧
      (i ≠ .derive → i ≠ .encrypt → i ≠ .decrypt → tm = s.temps ∧ dr = s.draws) ∧
      (i = .derive → skv = true ∧ d = s.dout ∧ w = s.w) := by
  cases i with
  | derive => exact ⟨s.w, s.dout, _, true, _, _, rfl, by simp, by simp, by simp⟩
  | encrypt =>
    obtain ⟨w, d, h⟩ := runStages_frame (encryptStages s.cfg s.var) s
    exact ⟨w, d, s.sk, s.status.skv, Config.freeTemps s.draws, s.draws + 1,
      by simp [effectOf, encryptEffect, h]; rfl, by simp, by simp, by simp⟩
  | decrypt =>
    obtain ⟨w, d, h⟩ := runStages_frame (decryptStages s.cfg s.var) s
    exact ⟨w, d, s.sk, s.status.skv, Config.freeTemps s.draws, s.draws + 1,
      by simp [effectOf, decryptEffect, h]; rfl, by simp, by simp, by simp⟩
  | _ => exact ⟨_, _, s.sk, s.status.skv, s.temps, s.draws, rfl, by simp, by simp, by simp⟩

/-- The register at the index of a register. -/
@[simp] theorem regAt_regIndex (r : Reg) : regAt (regIndex r) = r := by
  cases r with
  | sk k => revert k; decide
  | _ => rfl

/-- The index of the register at an index. -/
@[simp] theorem regIndex_regAt (i : RegIndex) : regIndex (regAt i) = i := by
  revert i; decide

/-- A host read adds one answer and may draw one free value; every register keeps its value. -/
theorem memRead_frame (i : RegIndex) (s : State) :
    ∃ v d, memRead i s = { s with rdata := v :: s.rdata, draws := d } :=
  ⟨_, _, rfl⟩

/-- A host read of a stable register, or of any register while idle, answers the stored value. -/
theorem memRead_stable {i : RegIndex} {s : State} (h : (s.status.busy && unstableWhileBusy (regAt i)) = false) :
    memRead i s = { s with rdata := s.readReg (regAt i) :: s.rdata } := by
  simp [memRead, readAnswer, answerIsFree, h]

/-- A host read of `W`, `DOUT` or `SK` while busy draws one free value and answers it. -/
theorem memRead_free {i : RegIndex} {s : State} (h : (s.status.busy && unstableWhileBusy (regAt i)) = true) :
    memRead i s = { s with rdata := Config.freeWord s.draws :: s.rdata, draws := s.draws + 1 } := by
  simp [memRead, readAnswer, answerIsFree, h]

/-- While the core is idle an `EXPECT` line asserts the stored word (spec/30_encoding.md R79). -/
theorem expectHolds_idle {s : State} (h : s.status.busy = false) (r : Reg) (v : Word) :
    expectHolds s (.expect r v) = (s.readReg r == v) := by
  simp [expectHolds, readAnswer, answerIsFree, h]

/-- Everything a host write can do. -/
theorem memWrite_cases (i : RegIndex) (v : Word) (s : State) :
    memWrite i v s = s ∨ memWrite i v s = s.writeStatus v ∨
      (s.status.busy = true ∧ memWrite i v s = s.dropWrite) ∨
      (s.status.busy = false ∧ (memWrite i v s = s.acceptCmd v ∨ memWrite i v s = s.writeMode v ∨
        memWrite i v s = s.writeKey v ∨ memWrite i v s = s.writeDin v)) := by
  unfold memWrite
  cases hb : s.status.busy <;> cases regAt i <;> simp

end Sys2Proof.Machine
end

