-- ==== Sys2Proof/Laws/Datapath.lean ====
section
/-! SUPPORT. The small lemmas of the datapath's definitions: bit sequences, halves, bytes, nibbles, tables. -/

namespace Sys2Proof.Machine

/-- The number a bit sequence stands for, with the bits read so far. -/
theorem foldl_bits_testBit (bits : List Bool) (acc i : Nat) :
    (bits.foldl (fun a b => 2 * a + b.toNat) acc).testBit i =
      if i < bits.length then bits.getD (bits.length - 1 - i) false else acc.testBit (i - bits.length) := by
  induction bits generalizing acc with
  | nil => simp
  | cons b rest ih =>
    rw [List.foldl_cons, ih]
    by_cases h : i < rest.length
    · rw [if_pos h, if_pos (by simp; omega)]
      rw [show (b :: rest).length - 1 - i = (rest.length - 1 - i) + 1 by simp; omega]
      simp
    · rw [if_neg h]
      by_cases h' : i = rest.length
      · subst h'
        cases b <;> simp [Nat.testBit_zero]
      · rw [if_neg (by simp; omega)]
        rw [show i - rest.length = (i - (b :: rest).length) + 1 by simp; omega]
        rw [Nat.testBit_succ]
        congr 1
        cases b
        · simp
        · simp; omega

/-- A bit of the value of a bit sequence: bit i is the sequence's bit at 0-indexed place `len - 1 - i`. -/
theorem ofBitseq_getLsbD (bits : List Bool) (i : Nat) (h : i < bits.length) :
    (ofBitseq bits.length bits).getLsbD i = bits.getD (bits.length - 1 - i) false := by
  simp only [ofBitseq, BitVec.getLsbD_ofNat, h, decide_true, Bool.true_and]
  rw [foldl_bits_testBit, if_pos h]

/-- A bit of a permuted value, by register bit number. -/
theorem permute_bit {n len : Nat} (v : BitVec n) (pat : List Nat) (hl : pat.length = len) (j : Nat) (hj : j < len) :
    (permute v len pat).getLsbD j = v.getLsbD (n - pat.getD (len - 1 - j) 0) := by
  subst hl
  unfold permute
  have h := ofBitseq_getLsbD (pat.map (seqBit v)) j (by simpa using hj)
  rw [List.length_map] at h
  rw [h, List.getD_eq_getElem _ _ (by simp; omega), List.getD_eq_getElem _ _ (by omega)]
  simp [seqBit]

@[simp] theorem splitHi_getLsbD {h : Nat} (v : BitVec (h + h)) (i : Nat) :
    (splitHi v).getLsbD i = (decide (i < h) && v.getLsbD (h + i)) := by
  simp [splitHi, BitVec.getLsbD_extractLsb']

@[simp] theorem splitLo_getLsbD {h : Nat} (v : BitVec (h + h)) (i : Nat) :
    (splitLo v).getLsbD i = (decide (i < h) && v.getLsbD i) := by
  simp [splitLo, BitVec.getLsbD_extractLsb']

@[simp] theorem splitHi_append {h : Nat} (a b : BitVec h) : splitHi (a ++ b) = a := by
  refine BitVec.eq_of_getLsbD_eq fun i hi => ?_
  simp [-BitVec.getLsbD_eq_getElem, BitVec.getLsbD_append, hi]

@[simp] theorem splitLo_append {h : Nat} (a b : BitVec h) : splitLo (a ++ b) = b := by
  refine BitVec.eq_of_getLsbD_eq fun i hi => ?_
  simp [-BitVec.getLsbD_eq_getElem, BitVec.getLsbD_append, hi]

/-- `split`'s inverse is concatenation (spec/40_datapath.md R102). -/
@[simp] theorem splitHi_append_splitLo {h : Nat} (v : BitVec (h + h)) : splitHi v ++ splitLo v = v := by
  refine BitVec.eq_of_getLsbD_eq fun i hi => ?_
  by_cases hh : i < h
  · simp [-BitVec.getLsbD_eq_getElem, BitVec.getLsbD_append, hh]
  · simp [-BitVec.getLsbD_eq_getElem, BitVec.getLsbD_append, hh, show i - h < h by omega, show h + (i - h) = i by omega]

@[simp] theorem zext16_getLsbD (b : Byte) (i : Nat) : (zext16 b).getLsbD i = b.getLsbD i := by
  by_cases h : i < 16
  · simp [-BitVec.getLsbD_eq_getElem, zext16, h]
  · simp [-BitVec.getLsbD_eq_getElem, zext16, h, BitVec.getLsbD_of_ge b i (by omega)]

@[simp] theorem lowByte_getLsbD (v : Word) (i : Nat) : (lowByte v).getLsbD i = (decide (i < 8) && v.getLsbD i) := by
  simp [-BitVec.getLsbD_eq_getElem, lowByte, BitVec.getLsbD_extractLsb']

@[simp] theorem highByte_getLsbD (v : Word) (i : Nat) :
    (highByte v).getLsbD i = (decide (i < 8) && v.getLsbD (8 + i)) := by
  simp [-BitVec.getLsbD_eq_getElem, highByte, BitVec.getLsbD_extractLsb']

@[simp] theorem lowByte_zext16 (b : Byte) : lowByte (zext16 b) = b := by
  refine BitVec.eq_of_getLsbD_eq fun i hi => ?_
  simp [-BitVec.getLsbD_eq_getElem, hi]

@[simp] theorem highByte_zext16 (b : Byte) : highByte (zext16 b) = 0 := by
  refine BitVec.eq_of_getLsbD_eq fun i hi => ?_
  simp [-BitVec.getLsbD_eq_getElem, hi]

/-- A word whose high byte is 0 is the zero extension of its low byte. -/
theorem zext16_lowByte {v : Word} (h : highByte v = 0) : zext16 (lowByte v) = v := by
  refine BitVec.eq_of_getLsbD_eq fun i hi => ?_
  by_cases h8 : i < 8
  · simp [-BitVec.getLsbD_eq_getElem, h8]
  · have := congrArg (fun b : Byte => b.getLsbD (i - 8)) h
    simp [-BitVec.getLsbD_eq_getElem, show i - 8 < 8 by omega, show 8 + (i - 8) = i by omega] at this
    simp [-BitVec.getLsbD_eq_getElem, h8, this]

theorem nib_getLsbD (v : Word) (j i : Nat) : (nib v j).getLsbD i = (decide (i < 4) && v.getLsbD (16 - 4 * j + i)) := by
  simp [-BitVec.getLsbD_eq_getElem, nib, BitVec.getLsbD_extractLsb']

theorem mknib_getLsbD (a b c d : Nibble) (i : Nat) :
    (mknib a b c d).getLsbD i =
      if i < 4 then d.getLsbD i else if i < 8 then c.getLsbD (i - 4) else if i < 12 then b.getLsbD (i - 8)
      else a.getLsbD (i - 12) := by
  simp only [mknib, BitVec.getLsbD_append]
  split
  · rfl
  split
  · rw [if_pos (by omega)]
  split
  · rw [if_neg (by omega), if_pos (by omega)]; congr 1
  · rw [if_neg (by omega), if_neg (by omega)]; congr 1

/-- The nibbles of a block made of four nibbles (spec/40_datapath.md R106). -/
@[simp] theorem nib_mknib_1 (a b c d : Nibble) : nib (mknib a b c d) 1 = a := by
  refine BitVec.eq_of_getLsbD_eq fun i hi => ?_
  simp [-BitVec.getLsbD_eq_getElem, nib_getLsbD, mknib_getLsbD, hi, show ¬12 + i < 4 by omega, show ¬12 + i < 8 by omega]

@[simp] theorem nib_mknib_2 (a b c d : Nibble) : nib (mknib a b c d) 2 = b := by
  refine BitVec.eq_of_getLsbD_eq fun i hi => ?_
  simp [-BitVec.getLsbD_eq_getElem, nib_getLsbD, mknib_getLsbD, hi, show ¬8 + i < 4 by omega, show 8 + i < 12 by omega]

@[simp] theorem nib_mknib_3 (a b c d : Nibble) : nib (mknib a b c d) 3 = c := by
  refine BitVec.eq_of_getLsbD_eq fun i hi => ?_
  simp [-BitVec.getLsbD_eq_getElem, nib_getLsbD, mknib_getLsbD, hi, show 4 + i < 8 by omega]

@[simp] theorem nib_mknib_4 (a b c d : Nibble) : nib (mknib a b c d) 4 = d := by
  refine BitVec.eq_of_getLsbD_eq fun i hi => ?_
  simp [-BitVec.getLsbD_eq_getElem, nib_getLsbD, mknib_getLsbD, hi]

/-- A block is its four nibbles (spec/20_memory.md R59). -/
@[simp] theorem mknib_nib (v : Word) : mknib (nib v 1) (nib v 2) (nib v 3) (nib v 4) = v := by
  refine BitVec.eq_of_getLsbD_eq fun i hi => ?_
  simp only [mknib_getLsbD, nib_getLsbD]
  split
  · simp [*]
  split
  · simp [-BitVec.getLsbD_eq_getElem, show i - 4 < 4 by omega, show 16 - 4 * 3 + (i - 4) = i by omega]
  split
  · simp [-BitVec.getLsbD_eq_getElem, show i - 8 < 4 by omega, show 16 - 4 * 2 + (i - 8) = i by omega]
  · simp [-BitVec.getLsbD_eq_getElem, show i - 12 < 4 by omega, show 16 - 4 * 1 + (i - 12) = i by omega]

/-- Two blocks with the same nibbles at 1..4 are equal. -/
theorem word_ext_nib {v w : Word} (h : ∀ j, 1 ≤ j → j ≤ 4 → nib v j = nib w j) : v = w := by
  rw [← mknib_nib v, ← mknib_nib w, h 1 (by omega) (by omega), h 2 (by omega) (by omega), h 3 (by omega) (by omega),
    h 4 (by omega) (by omega)]

/-- Each nibble of a substituted block (spec/43_spn_round.md R171, R172). -/
theorem nib_subNibbles (table : List Nat) (v : Word) {j : Nat} (h1 : 1 ≤ j) (h4 : j ≤ 4) :
    nib (subNibbles table v) j = sub4 table (nib v j) := by
  obtain rfl | rfl | rfl | rfl : j = 1 ∨ j = 2 ∨ j = 3 ∨ j = 4 := by omega
  all_goals simp [subNibbles]

/-- Each nibble of a shuffled block (spec/43_spn_round.md R173, R174). -/
theorem nib_shuffleNibbles (perm : List Nat) (v : Word) {j : Nat} (h1 : 1 ≤ j) (h4 : j ≤ 4) :
    nib (shuffleNibbles perm v) j = nib v (perm.getD (j - 1) 0) := by
  obtain rfl | rfl | rfl | rfl : j = 1 ∨ j = 2 ∨ j = 3 ∨ j = 4 := by omega
  all_goals simp [shuffleNibbles]

/-- A slot of a subkey file given slot by slot. -/
theorem slot_skFile (f : Nat → Word) {k : Nat} (h : k < 8) : slot (skFile f) k = f k := by
  obtain rfl | rfl | rfl | rfl | rfl | rfl | rfl | rfl :
    k = 0 ∨ k = 1 ∨ k = 2 ∨ k = 3 ∨ k = 4 ∨ k = 5 ∨ k = 6 ∨ k = 7 := by omega
  all_goals rfl

end Sys2Proof.Machine
end

