-- ==== Sys2Proof/Laws/PerInstr.lean ====
section
/-! SUPPORT. Laws said instruction by instruction, one lemma per constructor. -/

namespace Sys2Proof.Laws.TableMatch

/-- The word of a well-formed instruction is matched by the opcode table's row of that instruction (spec/30_encoding.md
R77): its bits under the mask are the row's pattern. -/
def Statement (i : Instr) : Prop := i.wellFormed = true → i.row.covers (encode i) = true

theorem nop : Statement .nop := fun _ => rfl

theorem derive : Statement .derive := fun _ => rfl

theorem encrypt : Statement .encrypt := fun _ => rfl

theorem decrypt : Statement .decrypt := fun _ => rfl

theorem loadw : Statement .loadw := fun _ => rfl

theorem storew : Statement .storew := fun _ => rfl

theorem ip : Statement .ip := fun _ => rfl

theorem fp : Statement .fp := fun _ => rfl

theorem fk (k : Nat) : Statement (.fk k) := by
  intro h
  have hk : k ≤ 7 := by simpa [Instr.wellFormed] using h
  revert h
  interval_cases k <;> decide

theorem swap : Statement .swap := fun _ => rfl

theorem ark (k : Nat) : Statement (.ark k) := by
  intro h
  have hk : k ≤ 7 := by simpa [Instr.wellFormed] using h
  revert h
  interval_cases k <;> decide

theorem nsub : Statement .nsub := fun _ => rfl

theorem insub : Statement .insub := fun _ => rfl

theorem shuf : Statement .shuf := fun _ => rfl

theorem ishuf : Statement .ishuf := fun _ => rfl

end Sys2Proof.Laws.TableMatch
end

