-- ==== Sys2Proof/Laws/Step.lean ====
section
/-! SUPPORT. Everything a step can do, said once. -/

namespace Sys2Proof.Machine

/-- With a well-formed configuration a step is one turn. -/
theorem step_of_wellFormed {s : State} (h : s.cfg.wellFormed = true) : step s = nextTurn s := by simp [step, h]

/-- A step that answers a next state ran on a well-formed configuration. -/
theorem wellFormed_of_step {s t : State} (h : step s = .next t) : s.cfg.wellFormed = true := by
  unfold step at h
  split at h
  · assumption
  · cases h

/-- The sequencer's turn: a reset step while `rst` = 1, nothing while idle, an illegal word's error, or the command's
meaning. -/
theorem sequencerTurn_next {s t : State} (h : sequencerTurn s = .next t) :
    (s.rst = true ∧ t = takeReset s) ∨ (s.rst = false ∧ s.seq = .idle ∧ t = s) ∨
      (s.rst = false ∧ s.seq = .run ∧
        ((∃ e, decode s.cmd = .error e ∧ t = (s.raise .illegal).complete) ∨
          ∃ i, decode s.cmd = .ok i ∧ exec i s = .next t)) := by
  unfold sequencerTurn at h
  cases hr : s.rst
  · simp only [hr, Bool.false_eq_true, if_false, runSequencer] at h
    cases hq : s.seq
    · rw [hq] at h
      exact .inr (.inl ⟨rfl, rfl, (Host.Outcome.next.inj h).symm⟩)
    · rw [hq] at h
      refine .inr (.inr ⟨rfl, rfl, ?_⟩)
      cases hd : decode s.cmd with
      | error e => rw [hd] at h; exact .inl ⟨e, rfl, (Host.Outcome.next.inj h).symm⟩
      | ok i => rw [hd] at h; exact .inr ⟨i, rfl, h⟩
  · simp only [hr, if_true] at h
    exact .inl ⟨rfl, (Host.Outcome.next.inj h).symm⟩

/-- The sequencer's turn always answers a next state. -/
theorem sequencerTurn_answers_next (s : State) : ∃ t, sequencerTurn s = .next t := by
  unfold sequencerTurn runSequencer
  split
  · exact ⟨_, rfl⟩
  · split
    · exact ⟨_, rfl⟩
    · split
      · exact ⟨_, rfl⟩
      · exact exec_answers_next _ _

/-- Everything a step can do: a host read or write (ignored while `rst` = 1), a change of the reset line, or the
sequencer's turn on the state without that turn. -/
theorem step_next {s t : State} (h : step s = .next t) :
    (∃ i es, s.inputs = .read i :: es ∧ t = if s.rst then s.setInputs es else memRead i (s.setInputs es)) ∨
      (∃ i v es, s.inputs = .write i v :: es ∧ t = if s.rst then s.setInputs es else memWrite i v (s.setInputs es)) ∨
      (∃ level es, s.inputs = .rst level :: es ∧ t = driveRst level (s.setInputs es)) ∨
      (∃ es, (s.inputs = .sequencer :: es ∨ (s.inputs = [] ∧ es = [])) ∧
        sequencerTurn (s.setInputs es) = .next t) := by
  rw [step_of_wellFormed (wellFormed_of_step h)] at h
  unfold nextTurn at h
  cases hi : s.inputs with
  | nil =>
    rw [hi] at h
    exact .inr (.inr (.inr ⟨[], .inr ⟨rfl, rfl⟩, by
      rw [show s.setInputs [] = s by rw [State.setInputs, ← hi]]; exact h⟩))
  | cons e es =>
    rw [hi] at h
    cases e with
    | read i => exact .inl ⟨i, es, rfl, (Host.Outcome.next.inj h).symm⟩
    | write i v => exact .inr (.inl ⟨i, v, es, rfl, (Host.Outcome.next.inj h).symm⟩)
    | rst level => exact .inr (.inr (.inl ⟨level, es, rfl, (Host.Outcome.next.inj h).symm⟩))
    | sequencer => exact .inr (.inr (.inr ⟨es, .inl rfl, h⟩))

/-- A run of one step more. -/
theorem run_succ {s t : State} (h : step s = .next t) (n : Nat) :
    Host.Core.run core (n + 1) s = Host.Core.run core n t := by
  have h' : core.step s = .next t := h
  simp only [Host.Core.run]
  rw [h']

end Sys2Proof.Machine
end

