-- ==== Sys2Proof/Tests/Slice0.lean ====
section
/-! SUPPORT. Tests: ill-formed terms the checks refuse, words written out from the encoding, one-step tests whose expected
values are the vectors of spec/95_test_vectors.md (their ids stand in the docstrings), and, for every statement with
hypotheses, a concrete state that meets them. -/

namespace Sys2Proof.Tests

open Sys2Proof.Machine

/-! ### Helpers -/

/-- The next state, if there is one. -/
def result (o : Host.Outcome State Fault Refusal) : Option State :=
  match o with
  | .next t => some t
  | .fault _ | .refused _ => none

/-- What `W` holds after a command. -/
def workAfter (i : Instr) (s : State) : Option Word := (result (exec i s)).map (·.w)

/-- What `DOUT` holds after a command. -/
def doutAfter (i : Instr) (s : State) : Option Word := (result (exec i s)).map (·.dout)

/-- What `STATUS` reads after the command word is accepted and its step taken. -/
def statusAfter (v : Nat) (s : State) : Option Word := (result (step (s.withFetchWord 16 v))).map (·.readReg .status)

/-- A command has ended and there are subkeys. -/
def keyed : Status := ⟨false, true, true, false, 0⟩

/-- FEISTEL8, idle, with the subkeys of vector K1. -/
def feistel : State :=
  { State.reset with
    status := keyed, key := 0x0282, din := 0x0072, w := 0x00A9,
    sk := #v[0x0000, 0x00A4, 0x0043, 0x0000, 0x0000, 0x0000, 0x0000, 0x0000] }

/-- SPN16, idle, with the subkeys of vector K6. -/
def spn : State :=
  { State.reset with
    status := keyed, var := .spn16, key := 0x6162, din := 0x6F6B, w := 0x1234,
    sk := #v[0x6162, 0x49CF, 0x05E6, 0x0000, 0x0000, 0x0000, 0x0000, 0x0000] }

/-- A state with these turns to come. -/
def withInputs (s : State) (es : List Input) : State := { s with inputs := es }

/-- The configuration with another round count under FEISTEL8, and a shift list of that length. -/
def sevenRounds : Configuration := { Configuration.reference with nrF := 7, shift := [1, 2, 1, 2, 1, 2, 1] }

/-! ### Well-formedness: ill-formed terms -/

theorem test_fk_index_eight_is_ill_formed : (Instr.fk 8).wellFormed = false := by decide
theorem test_ark_index_eight_is_ill_formed : (Instr.ark 8).wellFormed = false := by decide
theorem test_check1_refuses_no_rounds : (Configuration.mk 0 2 [] [] [] [] [] [] [] [] [] [] [] [] 0 true).check1 = false := by
  decide
theorem test_check2_refuses_a_repeated_position :
    ({ Configuration.reference with p10 := [3, 3, 2, 7, 4, 10, 1, 9, 8, 6] }).check2 = false := by decide
theorem test_check3_refuses_position_eleven :
    ({ Configuration.reference with p8 := [6, 3, 7, 4, 8, 5, 11, 9] }).check3 = false := by decide
theorem test_check4_refuses_a_missing_shift : ({ Configuration.reference with shift := [1] }).check4 = false := by decide
theorem test_check5_refuses_position_zero :
    ({ Configuration.reference with ip := [2, 6, 3, 1, 4, 8, 5, 0] }).check5 = false := by decide
theorem test_check6_refuses_another_permutation :
    ({ Configuration.reference with fp := [2, 6, 3, 1, 4, 8, 5, 7] }).check6 = false := by decide
theorem test_check7_refuses_position_five :
    ({ Configuration.reference with ep := [4, 1, 2, 3, 2, 3, 4, 5] }).check7 = false := by decide
theorem test_check8_refuses_three_entries : ({ Configuration.reference with p4 := [2, 4, 3] }).check8 = false := by decide
theorem test_check9_refuses_the_entry_four :
    ({ Configuration.reference with s1 := [[0, 1, 2, 3], [2, 0, 1, 3], [3, 0, 1, 0], [2, 1, 0, 4]] }).check9 = false := by
  decide
theorem test_check10_refuses_a_repeated_nibble :
    ({ Configuration.reference with
      sbox := [0x9, 0x9, 0xA, 0xB, 0xD, 0x1, 0x8, 0x5, 0x6, 0x2, 0x0, 0x3, 0xC, 0xE, 0xF, 0x7] }).check10 = false := by
  decide
theorem test_check11_refuses_a_repeated_nibble_position :
    ({ Configuration.reference with nperm := [1, 4, 4, 2] }).check11 = false := by decide
theorem test_check12_refuses_a_wide_constant :
    ({ Configuration.reference with rcon := [0x80, 0x100] }).check12 = false := by decide
theorem test_check13_refuses_rotation_eight : ({ Configuration.reference with grot := 8 }).check13 = false := by decide
/-- The whole check refuses what one of the thirteen refuses. -/
theorem test_ill_formed_configuration_is_refused : ({ Configuration.reference with grot := 8 }).wellFormed = false := by
  decide

/-! ### Decoding: words written out from R71 and R73 -/

theorem test_decode_plain_words :
    [0x0000, 0x0001, 0x0002, 0x0003, 0x0004, 0x0005].map (fun v : Word => (decode v).toOption) =
      [some .nop, some .derive, some .encrypt, some .decrypt, some .loadw, some .storew] := by decide
theorem test_decode_feistel_words :
    [0b0000000000000110, 0b0000000000000111, 0b0000000000001001].map (fun v : Word => (decode v).toOption) =
      [some .ip, some .fp, some .swap] := by decide
theorem test_decode_fk_words :
    [0b0000000000001000, 0b0000000000011000, 0b0000000001111000].map (fun v : Word => (decode v).toOption) =
      [some (.fk 0), some (.fk 1), some (.fk 7)] := by decide
theorem test_decode_ark_words :
    [0b0000000000001010, 0b0000000000101010, 0b0000000001111010].map (fun v : Word => (decode v).toOption) =
      [some (.ark 0), some (.ark 2), some (.ark 7)] := by decide
theorem test_decode_spn_words :
    [0b0000000000001011, 0b0000000000001100, 0b0000000000001101, 0b0000000000001110].map
        (fun v : Word => (decode v).toOption) = [some .nsub, some .insub, some .shuf, some .ishuf] := by decide
/-- E1, E9, E10, E11: each reserved field, by name. -/
theorem test_decode_rejects_by_name :
    decode 0x000F = .error .reservedOp ∧ decode 0x0012 = .error .unexpectedK ∧ decode 0x0010 = .error .unexpectedK ∧
      decode 0x8000 = .error .reservedBits ∧ decode 0x0080 = .error .reservedBits := by decide
theorem test_assembler_reads_ark : assembleLine ['A', 'R', 'K', ' ', '2', ' ', ';', 'x'] = some (.ark 2) := by decide
theorem test_assembler_rejects_fk_without_operand : assembleLine ['F', 'K', ' '] = none := by decide

/-! ### Datapath primitives (vectors P1 to P23) -/

theorem test_permute : permute (0b1010000010 : BitVec 10) 10 Configuration.reference.p10 = 0b1000001100 ∧
    permute (0b1001 : BitVec 4) 8 Configuration.reference.ep = 0b11000011 := by decide
theorem test_rotl : rotl (0b10000 : BitVec 5) 6 = 0b00001 ∧ rotl (0x62 : BitVec 8) 4 = 0x26 := by decide
theorem test_sbox2 : sbox2 Configuration.reference.s0 0b1001 = 3 ∧ sbox2 Configuration.reference.s0 0b0110 = 2 ∧
    sbox2 Configuration.reference.s1 0b1001 = 2 := by decide
theorem test_subword : subword Configuration.reference.sbox 0x94 = 0x2D := by decide
theorem test_inverse_tables :
    inverseSbox Configuration.reference.sbox =
      [0xA, 0x5, 0x9, 0xB, 0x1, 0x7, 0x8, 0xF, 0x6, 0x0, 0x2, 0x3, 0xC, 0x4, 0xD, 0xE] ∧
    inversePositions 4 Configuration.reference.nperm = [1, 4, 3, 2] := by decide
/-- F1, F4. -/
theorem test_feistel_function : feistelF Configuration.reference 0b1001 0xA4 = 0b0111 ∧
    feistelF Configuration.reference 0b1101 0x43 = 0b0111 := by decide

/-! ### One step of each command -/

/-- M9, after a command that ended with `ERR` = 5: the accepted write leaves `BUSY` = 1, `DONE` = 0, `ERR` = 0. -/
theorem test_accepted_write_clears_done_and_err :
    (result (step (withInputs { feistel with status := ⟨false, true, true, false, 5⟩ } [.write 0 0x000F]))).map
      (fun t => (t.cmd, t.readReg .status)) = some (0x000F, 0x0005) := by decide
/-- E12. -/
theorem test_nop_clears_the_error_and_keeps_skv :
    statusAfter 0x0000 { feistel with status := ⟨false, true, true, false, 5⟩ } = some 0x0006 := by decide
/-- K1. -/
theorem test_derive_feistel :
    (result (exec .derive { State.reset with key := 0x0282 })).map (·.sk) = some feistel.sk := by decide
/-- K6. -/
theorem test_derive_spn :
    (result (exec .derive { State.reset with var := .spn16, key := 0x6162 })).map (·.sk) = some spn.sk := by decide
/-- T1. -/
theorem test_encrypt_feistel : doutAfter .encrypt feistel = some 0x0077 := by decide
/-- T11. -/
theorem test_encrypt_spn : doutAfter .encrypt spn = some 0xECF5 := by decide
/-- T2. -/
theorem test_decrypt_feistel : doutAfter .decrypt { feistel with din := 0x0077 } = some 0x0072 := by decide
/-- T12. -/
theorem test_decrypt_spn : doutAfter .decrypt { spn with din := 0xECF5 } = some 0x6F6B := by decide
/-- R192. -/
theorem test_loadw_takes_sixteen_bits_under_spn : workAfter .loadw spn = some 0x6F6B := by decide
/-- R192: `DIN[15:8]` is not 0 under FEISTEL8. -/
theorem test_loadw_of_a_wide_block_fails : statusAfter 0x0004 { feistel with din := 0x0172 } = some 0x0056 := by decide
/-- R193. -/
theorem test_storew : doutAfter .storew spn = some 0x1234 := by decide
/-- F12. -/
theorem test_ip : [0x0001, 0x0080, 0x00AA].map (fun v => workAfter .ip { feistel with w := v }) =
    [some 0x0004, some 0x0010, some 0x0033] := by decide
/-- F14. -/
theorem test_fp : [0x0001, 0x0080, 0x00AA].map (fun v => workAfter .fp { feistel with w := v }) =
    [some 0x0002, some 0x0040, some 0x0078] := by decide
/-- F5. -/
theorem test_fk : workAfter (.fk 1) feistel = some 0x00D9 := by decide
/-- E8. -/
theorem test_fk_under_spn_is_a_mode_error : statusAfter 0x0018 { State.reset with var := .spn16 } = some 0x0022 := by decide
/-- F16. -/
theorem test_swap : workAfter .swap { feistel with w := 0x00D9 } = some 0x009D := by decide
/-- S1. -/
theorem test_ark : workAfter (.ark 0) { spn with w := 0x6F6B } = some 0x0E09 := by decide
/-- E14. -/
theorem test_ark_index_is_checked_before_the_key :
    statusAfter 0x003A { State.reset with var := .spn16 } = some 0x0032 := by decide
/-- S4. -/
theorem test_nsub : [0x1234, 0xABCD].map (fun v => workAfter .nsub { spn with w := v }) = [some 0x4ABD, some 0x03CE] := by
  decide
/-- E13. -/
theorem test_nsub_needs_no_subkeys : statusAfter 0x000B { State.reset with var := .spn16 } = some 0x0002 := by decide
/-- S6. -/
theorem test_insub : [0x1234, 0xABCD].map (fun v => workAfter .insub { spn with w := v }) =
    [some 0x59B1, some 0x23C4] := by decide
/-- S9. -/
theorem test_shuf : [0x6F6B, 0xABCD].map (fun v => workAfter .shuf { spn with w := v }) = [some 0x6B6F, some 0xADCB] := by
  decide
/-- A shuffle that is not its own inverse: the rules R107, R174 by hand for `NPERM` = [2, 3, 1, 4] on 0x1234. -/
theorem test_ishuf :
    workAfter .ishuf { spn with w := 0xD05B } = some 0xDB50 ∧
    workAfter .ishuf { spn with cfg := { Configuration.reference with nperm := [2, 3, 1, 4] } } = some 0x3124 := by decide
/-- E1. -/
theorem test_illegal_word : statusAfter 0x000F State.reset = some 0x0012 := by decide
/-- E9. -/
theorem test_illegal_word_before_every_other_error :
    statusAfter 0x0012 { feistel with din := 0x0172 } = some 0x0016 := by decide

/-! ### The register port (vectors M1 to M10) -/

/-- M1. -/
theorem test_mode_write :
    (result (step (withInputs { feistel with w := 0x0077 } [.write 2 0x0001]))).map
        (fun t => (t.var, t.status.skv, t.w, t.sk)) = some (.spn16, false, 0x0000, feistel.sk) := by decide
/-- M4. -/
theorem test_din_write_while_busy :
    (result (step { feistel.withCommand 0x0002 with inputs := [.write 4 0x00AA] })).map
        (fun t => (t.din, t.status.ovr, t.status.err)) = some (0x0072, true, 0) := by decide
/-- M5, M6. -/
theorem test_status_write :
    [0x0008, 0x0077].map (fun v => (result (step { feistel with
      status := ⟨false, true, true, true, 0⟩, inputs := [.write 1 v] })).map (·.readReg .status)) =
      [some 0x0006, some 0x000E] := by decide
/-- M8. -/
theorem test_reserved_index_reads_zero :
    (result (step (withInputs feistel [.read 7]))).map (·.rdata) = some [0x0000] := by decide
/-- M10. -/
theorem test_reset_step :
    (result (step (withInputs feistel [.rst true]))).map (fun t => (t.status, t.key, t.w, t.seq)) =
      some (Status.reset, 0x0000, 0x0000, .idle) := by decide

/-- R79 while idle: an `EXPECT` line holds of the stored word (program 1 of spec/95_test_vectors.md, `SK1`). -/
theorem test_expect_while_idle :
    expectHolds feistel (.expect (.sk 1) 0x00A4) = true ∧ expectHolds feistel (.expect .status 0x0004) = false := by decide

/-! ### The hypotheses of the statements can be met, at the boundaries of each clause -/

/-- A FEISTEL8 core with seven rounds and any subkeys: the largest `NR_F`. -/
def feistelSeven : State := { feistel with cfg := sevenRounds }

/-- The core busy with a command, the sequencer to move. -/
def busy : State := feistel.withCommand 0x0002

/-- The core held in reset. -/
def held : State := { State.reset with rst := true }

/-- Every command answers a next state, for the hypotheses of the form `exec i s = .next t`. -/
theorem exec_hypothesis_is_met (i : Instr) (s : State) : ∃ t, exec i s = .next t := exec_answers_next i s

/-- Every step of a well-formed core answers one, for the hypotheses of the form `step s = .next t`. -/
theorem step_hypothesis_is_met : ∃ t, step feistel = .next t := by
  have h : step feistel = nextTurn feistel := step_of_wellFormed (by decide)
  rw [h]
  exact sequencerTurn_answers_next feistel

theorem witness_DecodeIsTotalAndRejectsExactlyReservedWords :
    ([0x0080, 0x8000, 0x000F, 0x0010, 0x007E, 0x007B].map (fun v : Word => (decode v).toOption) =
      [none, none, none, none, none, none]) ∧
    ((0x0078 : Word).extractLsb' 7 9 = 0 ∧ (0x0078 : Word).extractLsb' 0 4 = 0x8) ∧
    ((0x007A : Word).extractLsb' 7 9 = 0 ∧ (0x007A : Word).extractLsb' 0 4 = 0xA) ∧
    ((0x000E : Word).extractLsb' 7 9 = 0 ∧ (0x000E : Word).extractLsb' 4 3 = 0 ∧ (0x000E : Word).extractLsb' 0 4 ≠ 0x8 ∧
      (0x000E : Word).extractLsb' 0 4 ≠ 0xA ∧ (0x000E : Word).extractLsb' 0 4 ≠ 0xF) := by decide

theorem witness_DecodeOfEncodeIsTheInstruction :
    (Instr.fk 7).wellFormed = true ∧ (Instr.ark 0).wellFormed = true ∧ Instr.derive.wellFormed = true := by decide

theorem witness_EncodeOfDecodeIsTheWord : decode 0x0078 = .ok (.fk 7) ∧ decode 0x000E = .ok .ishuf := by decide

theorem witness_TableRowsMatchExactlyTheirCommands :
    (⟨0x0008, 0xFF8F⟩ : OpcodeRow) ∈ opcodeTable ∧ (0x0078 : Word) &&& 0xFF8F = 0x0008 ∧ 7 ≤ 7 := by decide

theorem witness_AssemblerAcceptsOnlyWellFormedCommands :
    assembleLine ['A', 'R', 'K', ' ', '7'] = some (.ark 7) ∧ assembleLine ['S', 'H', 'U', 'F', ';', 'x'] = some .shuf := by
  decide

theorem witness_StepRunsTheDecodedCommand :
    (busy.cfg.wellFormed = true ∧ busy.seq = .run ∧ busy.rst = false ∧ decode busy.cmd = .ok .encrypt ∧
      busy.inputs = [] ∧ (withInputs busy [.sequencer]).inputs = .sequencer :: []) ∧
    decode (feistel.withCommand 0x000F).cmd = .error .reservedOp := by decide

theorem witness_FetchedWordRunsNext :
    State.reset.cfg.wellFormed = true ∧ decodeTableWord 16 0x0078 = some (.fk 7) := by decide

theorem witness_IdleCoreHoldsUntilCmdWrite :
    (feistel.cfg.wellFormed = true ∧ feistel.seq = .idle ∧ feistel.rst = false ∧ feistel.inputs = [] ∧
      (withInputs feistel [.sequencer]).inputs = .sequencer :: []) ∧
    (result (step (withInputs feistel [.write 0 0x000F]))).map (·.seq) = some .run := by decide

theorem witness_IllFormedConfigurationIsRefused :
    ({ State.reset with cfg := { Configuration.reference with nrF := 8 } }).cfg.wellFormed = false := by decide

theorem witness_WellFormedCoreAlwaysAnswersNext : feistelSeven.cfg.wellFormed = true := by decide

theorem witness_RunningCommandEndsEventually :
    (busy.cfg.wellFormed = true ∧ busy.seq = .run ∧ (withInputs busy [.read 1, .rst true]).seq = .run) ∧
    (busy.status.busy = true ∧ busy.rst = false ∧ Input.rst true ∉ (withInputs busy [.read 1, .write 0 0x0001]).inputs) := by
  decide

theorem witness_ResultsAppearOnlyWithTheCommandsStep :
    busy.seq = .run ∧ busy.status.busy = true ∧
      (result (step (withInputs busy [.write 4 0x00AA]))).map (fun t => (t.seq, t.status.ovr)) = some (.run, true) := by decide

theorem witness_ConfigurationNeverChanges : ∃ t, step feistel = .next t := step_hypothesis_is_met

theorem witness_EveryStepKeepsInvariant : feistel.Inv ∧ ∃ t, step feistel = .next t :=
  ⟨{ configuration := by decide
     seq_iff_busy := by decide
     busy_or_done := by decide
     error_code := by decide
     error_done := by decide
     work_block := by decide
     unused_slots := by decide
     subkey_width := by decide
     reset_idle := by decide }, step_hypothesis_is_met⟩

theorem witness_CommandsWriteOnlyTheirRegisters :
    (∃ t, exec .swap feistel = .next t) ∧ Instr.swap ≠ .derive ∧ Instr.swap ≠ .storew ∧ Instr.swap ≠ .encrypt ∧
      Instr.swap ≠ .decrypt ∧ ∃ t, exec .storew feistel = .next t :=
  ⟨exec_answers_next _ _, by decide, by decide, by decide, by decide, exec_answers_next _ _⟩

theorem witness_LoadwLoadsTheInputBlock :
    (feistel.var = .feistel8 ∧ ({ feistel with din := 0x00FF }).din.extractLsb' 8 8 = 0) ∧ spn.var = .spn16 ∧
      ({ feistel with din := 0x0100 }).din.extractLsb' 8 8 ≠ 0 := by decide

theorem witness_IpAndFpPermuteTheWorkingBlock : feistel.cfg.wellFormed = true ∧ feistel.var = .feistel8 := by decide

theorem witness_SwapExchangesTheHalves : feistelSeven.var = .feistel8 := by decide

theorem witness_FkAppliesOneFeistelRound :
    feistelSeven.var = .feistel8 ∧ feistelSeven.status.skv = true ∧ 1 ≤ (1 : Fin 8).val ∧ 1 ≤ (7 : Fin 8).val ∧
      (7 : Fin 8).val ≤ feistelSeven.cfg.nrF := by decide

theorem witness_ArkXorsTheSubkey :
    spn.var = .spn16 ∧ spn.status.skv = true ∧ (0 : Fin 8).val ≤ spn.cfg.nrS ∧ (2 : Fin 8).val ≤ spn.cfg.nrS := by decide

theorem witness_NibbleSubstitutionsUseTheTable : spn.cfg.wellFormed = true ∧ spn.var = .spn16 := by decide

theorem witness_NibbleShufflesMoveNibbles : spn.cfg.wellFormed = true ∧ spn.var = .spn16 := by decide

theorem witness_DeriveFeistelRotatesCumulatively :
    feistel.cfg.wellFormed = true ∧ feistel.var = .feistel8 ∧ ({ feistel with key := 0x03FF }).key.extractLsb' 10 6 = 0 := by
  decide

theorem witness_ConstantFeistelKeysGiveConstantSubkeys :
    feistelSeven.cfg.wellFormed = true ∧ feistelSeven.var = .feistel8 ∧
      (∃ t, exec .derive { feistelSeven with key := 0x03FF } = .next t) ∧ 1 ≤ (7 : Fin 8).val ∧
      (7 : Fin 8).val ≤ feistelSeven.cfg.nrF :=
  ⟨by decide, by decide, exec_answers_next _ _, by decide, by decide⟩

theorem witness_DeriveSpnExpandsWords : spn.var = .spn16 := by decide

theorem witness_FeistelPipelineIsTheNestedFormula :
    feistel.cfg.wellFormed = true ∧ feistel.var = .feistel8 ∧ feistel.status.skv = true ∧
      feistel.din.extractLsb' 8 8 = 0 ∧ feistelSeven.cfg.wellFormed = true := by decide

theorem witness_SpnPipelineIsTheLayeredRounds :
    spn.cfg.wellFormed = true ∧ spn.var = .spn16 ∧ spn.status.skv = true := by decide

theorem witness_DecryptAndEncryptUndoEachOther :
    (feistel.cfg.wellFormed = true ∧ feistel.status.skv = true ∧ dinFits feistel ∧
      (doutAfter .encrypt feistel = some ({ feistel with din := 0x0077 }).din)) ∧
    (spn.cfg.wellFormed = true ∧ spn.status.skv = true ∧ dinFits spn ∧
      (doutAfter .decrypt { spn with din := 0xECF5 } = some spn.din)) ∧
    (Instr.encrypt, Instr.decrypt) ∈ [(Instr.encrypt, Instr.decrypt), (Instr.decrypt, Instr.encrypt)] :=
  ⟨⟨by decide, by decide, fun _ => by decide, by decide⟩,
    ⟨by decide, by decide, fun h => absurd h (by decide), by decide⟩, by decide⟩

theorem witness_DistinctPlaintextsGiveDistinctCiphertexts :
    feistel.cfg.wellFormed = true ∧ feistel.status.skv = true ∧ dinFits { feistel with din := 0x0072 } ∧
      dinFits { feistel with din := 0x0073 } ∧ (0x0072 : Word) ≠ 0x0073 ∧
      (∃ t, exec .encrypt { feistel with din := 0x0072 } = .next t) ∧
      ∃ u, exec .encrypt { feistel with din := 0x0073 } = .next u :=
  ⟨by decide, by decide, fun _ => by decide, fun _ => by decide, by decide, exec_answers_next _ _, exec_answers_next _ _⟩

theorem witness_StagesOneByOneEqualTheCompositeCommand :
    feistel.cfg.wellFormed = true ∧ feistel.rst = false ∧ feistel.seq = .idle ∧ feistel.status.busy = false ∧
      feistel.status.skv = true ∧ dinFits feistel ∧
      (Instr.encrypt, encryptStages feistel.cfg feistel.var) ∈
        [(Instr.encrypt, encryptStages feistel.cfg feistel.var), (Instr.decrypt, decryptStages feistel.cfg feistel.var)] ∧
      (Instr.decrypt, decryptStages feistel.cfg feistel.var) ∈
        [(Instr.encrypt, encryptStages feistel.cfg feistel.var), (Instr.decrypt, decryptStages feistel.cfg feistel.var)] :=
  ⟨by decide, by decide, by decide, by decide, by decide, fun _ => by decide, by decide, by decide⟩

theorem witness_FeistelRoundIsAnInvolution :
    feistelSeven.var = .feistel8 ∧ feistelSeven.status.skv = true ∧ 1 ≤ (7 : Fin 8).val ∧
      (7 : Fin 8).val ≤ feistelSeven.cfg.nrF ∧ feistelSeven.w.extractLsb' 8 8 = 0 := by decide

theorem witness_SwapAndPermutationsUndoEachOther :
    feistel.cfg.wellFormed = true ∧ feistel.var = .feistel8 ∧ feistel.w.extractLsb' 8 8 = 0 := by decide

theorem witness_SubstitutionAndShuffleCommute : spn.cfg.wellFormed = true ∧ spn.var = .spn16 := by decide

theorem witness_SpnLayersUndoEachOther :
    spn.cfg.wellFormed = true ∧ spn.var = .spn16 ∧
      (Instr.ishuf, Instr.shuf) ∈
        [(Instr.nsub, Instr.insub), (Instr.insub, Instr.nsub), (Instr.shuf, Instr.ishuf), (Instr.ishuf, Instr.shuf)] := by
  decide

/-- One word for each clause: an illegal word; a mode error; an index below and above the range; no key; a wide key; a
command that runs. -/
theorem witness_ChecksAreReportedInOrder :
    busy.seq = .run ∧
    [statusAfter 0x000F feistel, statusAfter 0x000A feistel, statusAfter 0x0008 feistel, statusAfter 0x0038 feistel,
      statusAfter 0x0018 State.reset, statusAfter 0x0001 { feistel with key := 0x0482 }, statusAfter 0x0028 feistel] =
      [some 0x0016, some 0x0026, some 0x0036, some 0x0036, some 0x0042, some 0x0056, some 0x0006] := by decide

theorem witness_ErrorsChangeOnlyStatus :
    (result (exec .encrypt { feistel with din := 0x0172 })).map (·.status.err) = some 5 ∧ feistel.status.err ≠ 5 := by
  decide

theorem witness_SkvIsSetByDeriveAndClearedByModeAndReset :
    keyFits { feistel with key := 0x03FF } ∧
    ((State.reset.withCommand 0x0001).status.skv = false ∧
      (result (step (State.reset.withCommand 0x0001))).map (·.status.skv) = some true) ∧
    (held.rst = true ∧ feistel.status.busy = false) ∧
    (feistel.status.skv = true ∧
      (result (step (withInputs feistel [.rst true]))).map (·.status.skv) = some false ∧
      (result (step { feistel with rst := true })).map (·.status.skv) = some false ∧
      (result (step (withInputs feistel [.write 2 0x0000]))).map (·.status.skv) = some false) ∧
    (State.reset.status.skv = false ∧ readsSubkeys (.fk 1) = true ∧ readsSubkeys .decrypt = true ∧
      kOutOfRange State.reset.cfg (.fk 1) = false) :=
  ⟨fun _ => by decide, by decide, by decide, by decide, by decide⟩

theorem witness_OnlyDeriveAndResetWriteSubkeys :
    (result (step ({ feistel with key := 0x0155 }.withCommand 0x0001))).map (fun t => decide (t.sk ≠ feistel.sk)) =
      some true := by decide

theorem witness_CommandResultsDependOnRegistersOnly :
    let s' : State := { feistel with cmd := 0x0002, seq := .run, draws := 7, rdata := [0x0006] }
    s'.cfg = feistel.cfg ∧ s'.status = feistel.status ∧ s'.var = feistel.var ∧ s'.key = feistel.key ∧
      s'.din = feistel.din ∧ s'.dout = feistel.dout ∧ s'.w = feistel.w ∧ s'.sk = feistel.sk ∧ s' ≠ feistel := by decide

theorem witness_OnlyDeriveReadsTheKey : Instr.encrypt ≠ .derive := by decide

theorem witness_HostAccessIsOneStep :
    feistel.cfg.wellFormed = true ∧ feistel.rst = false ∧ held.cfg.wellFormed = true ∧ held.rst = true ∧
      (withInputs feistel [.read 15]).inputs = .read 15 :: [] ∧
      (withInputs held [.write 0 0x0001]).inputs = .write 0 0x0001 :: [] := by decide

theorem witness_CmdWriteIsAcceptedWhileIdle :
    feistel.status.busy = false ∧ decode 0x0000 = .ok .nop ∧ decode 0xFFFF = .error .reservedBits := by decide

theorem witness_ModeKeyAndDinWritesWhileIdle :
    feistel.status.busy = false ∧ (memWrite 2 0xFFFE feistel).readReg .mode = 0x0000 := by decide

theorem witness_WritesWhileBusyAreDropped : busy.status.busy = true ∧ (memWrite 4 0x00AA busy).din = busy.din := by decide

theorem witness_StatusAndReadOnlyWrites :
    (0x0008 : Word).getLsbD 3 = true ∧ (0x0077 : Word).getLsbD 3 = false ∧ 5 ≤ (5 : RegIndex).toNat ∧
      5 ≤ (15 : RegIndex).toNat := by decide

theorem witness_ReadsAnswerTheStoredWord :
    feistel.status.busy = false ∧ (4 : RegIndex).toNat ≤ 4 ∧ busy.status.busy = true ∧ 8 ≤ (8 : RegIndex).toNat := by decide

theorem witness_RunPseudoInstructionHasTheCommandsEffect :
    feistel.cfg.wellFormed = true ∧ feistel.rst = false ∧ feistel.seq = .idle ∧ feistel.status.busy = false ∧
      (Instr.fk 7).wellFormed = true := by decide

theorem witness_ResetStepClearsEveryRegister :
    (busy.cfg.wellFormed = true ∧ (withInputs busy [.rst true]).inputs = .rst true :: []) ∧
    (held.cfg.wellFormed = true ∧ held.rst = true ∧ held.inputs = [] ∧
      (withInputs held [.sequencer]).inputs = .sequencer :: [] ∧ (withInputs held [.rst false]).inputs = .rst false :: []) := by
  decide

theorem witness_PermuteMovesBits : 1 ≤ 1 ∧ 8 ≤ Configuration.reference.ip.length := by decide

theorem witness_RotateLeftIsCyclic : 4 < 5 := by decide

theorem witness_TableLookupsGiveTheEntry : Configuration.reference.wellFormed = true ∧ sevenRounds.wellFormed = true := by
  decide

theorem witness_InverseTablesUndoTheTables : sevenRounds.wellFormed = true ∧ 15 < 16 ∧ 4 ≤ 4 ∧ 8 ≤ 8 := by decide

end Sys2Proof.Tests
end

/-! O42 (spec/00_scope.md R16). Two states agree in the registers commands read or write (all but `CMD`) and in the
configuration exactly when `State.registersOnly` takes them to the same
state. The check, every stage, the error and the completion commute with that map, so two states with the same registers
run a command to the same registers. -/

namespace Sys2Proof.Machine

/-- The configuration and the registers a command can read or write, with every other field at its value in
`State.reset`. -/
def State.registersOnly (s : State) : State :=
  { State.reset with
    cfg := s.cfg, status := s.status, var := s.var, key := s.key, din := s.din, dout := s.dout, w := s.w, sk := s.sk }

theorem State.registersOnly_eq_iff (s s' : State) :
    s'.registersOnly = s.registersOnly ↔
      s'.cfg = s.cfg ∧ s'.status = s.status ∧ s'.var = s.var ∧ s'.key = s.key ∧ s'.din = s.din ∧ s'.dout = s.dout ∧
        s'.w = s.w ∧ s'.sk = s.sk := by
  simp [State.registersOnly]

@[simp] theorem State.registersOnly_cfg (s : State) : s.registersOnly.cfg = s.cfg := rfl
@[simp] theorem State.registersOnly_var (s : State) : s.registersOnly.var = s.var := rfl

@[simp] theorem State.registersOnly_idem (s : State) : s.registersOnly.registersOnly = s.registersOnly := rfl

@[simp] theorem State.registersOnly_raise (e : CmdError) (s : State) :
    (s.raise e).registersOnly = s.registersOnly.raise e := rfl

@[simp] theorem State.registersOnly_complete (s : State) : s.complete.registersOnly = s.registersOnly.complete := rfl

/-- The temporaries are no register, and neither is the count of draws. -/
@[simp] theorem State.registersOnly_dropTemps (s : State) : s.dropTemps.registersOnly = s.registersOnly := rfl

@[simp] theorem check_registersOnly (i : Instr) (s : State) : check i s.registersOnly = check i s := rfl

theorem registersOnly_stageEffect (i : Instr) (s : State) :
    (stageEffect i s).registersOnly = stageEffect i s.registersOnly := by
  cases i <;> rfl

theorem registersOnly_runStages (stages : List Instr) (s : State) :
    (runStages stages s).registersOnly = runStages stages s.registersOnly := by
  induction stages generalizing s with
  | nil => rfl
  | cons i rest ih =>
    calc (runStages rest (stageEffect i s)).registersOnly
      _ = runStages rest (stageEffect i s).registersOnly := ih _
      _ = runStages rest (stageEffect i s.registersOnly) := by rw [registersOnly_stageEffect]

/-- The registers a command's effect leaves are those it leaves from the registers alone. (The composite commands leave a
free value in the temporaries, so the map stands on both sides.) -/
theorem registersOnly_effectOf (i : Instr) (s : State) :
    (effectOf i s).registersOnly = (effectOf i s.registersOnly).registersOnly := by
  cases i with
  | derive => rfl
  | encrypt => simp [effectOf, encryptEffect, registersOnly_runStages]
  | decrypt => simp [effectOf, decryptEffect, registersOnly_runStages]
  | _ => simp [effectOf, registersOnly_stageEffect]

/-- Two states with the same registers run a command to the same registers. -/
theorem exec_registersOnly_congr (i : Instr) {s s' : State} (h : s'.registersOnly = s.registersOnly) :
    ∃ t t', exec i s = .next t ∧ exec i s' = .next t' ∧ t'.registersOnly = t.registersOnly := by
  have hcheck : check i s' = check i s := by rw [← check_registersOnly, h, check_registersOnly]
  cases hc : check i s with
  | some e => exact ⟨_, _, exec_of_check_some hc, exec_of_check_some (hcheck.trans hc), by simp [h]⟩
  | none =>
    have heffect : (effectOf i s').registersOnly = (effectOf i s).registersOnly := by
      rw [registersOnly_effectOf i s', h, ← registersOnly_effectOf]
    exact ⟨_, _, exec_of_check_none hc, exec_of_check_none (hcheck.trans hc), by simp [heffect]⟩

/-- Settles O42: the hypotheses and the conclusion say that two states agree in `State.registersOnly`. -/
theorem commandResultsDependOnRegistersOnly : Obligations.CommandResultsDependOnRegistersOnly := by
  intro i s s' hcfg hstatus hvar hkey hdin hdout hw hsk
  have h : s'.registersOnly = s.registersOnly :=
    (State.registersOnly_eq_iff s s').mpr ⟨hcfg, hstatus, hvar, hkey, hdin, hdout, hw, hsk⟩
  obtain ⟨t, t', ht, ht', hregs⟩ := exec_registersOnly_congr i h
  exact ⟨t, t', ht, ht', (State.registersOnly_eq_iff t t').mp hregs⟩

end Sys2Proof.Machine

/-! ### What a command leaves, register by register (spec/10_state.md R21 to R30)

`effectOf_frame` (Laws/Ops.lean) says which registers an effect may write at all; here stands which command writes `W`
and which writes `DOUT`, and then each fact once for `exec`, where a command may also end with an error. -/

namespace Sys2Proof.Machine

section CommandFrame

variable {i : Instr} {s t : State}

/-- Only `STOREW` and the commands with a `STOREW` stage write `DOUT` (spec/10_state.md R29). -/
theorem effectOf_dout (hstorew : i ≠ .storew) (hencrypt : i ≠ .encrypt) (hdecrypt : i ≠ .decrypt) (s : State) :
    (effectOf i s).dout = s.dout := by
  cases i with
  | storew | encrypt | decrypt => contradiction
  | _ => rfl

/-- `NOP`, `DERIVE` and `STOREW` are not among the commands that write `W` (spec/10_state.md R29). -/
theorem effectOf_w (hi : i = .nop ∨ i = .derive ∨ i = .storew) (s : State) : (effectOf i s).w = s.w := by
  obtain rfl | rfl | rfl := hi <;> rfl

/-- No command writes the configuration, `CMD`, `MODE`, `KEY` or `DIN`, or touches the ports. -/
theorem exec_frame (h : exec i s = .next t) :
    t.cfg = s.cfg ∧ t.cmd = s.cmd ∧ t.var = s.var ∧ t.key = s.key ∧ t.din = s.din ∧ t.rst = s.rst ∧
      t.rdata = s.rdata ∧ t.inputs = s.inputs := by
  obtain ⟨e, -, rfl⟩ | ⟨-, rfl⟩ := exec_next h
  · simp
  · obtain ⟨w, d, sk, skv, tm, dr, heq, -⟩ := effectOf_frame i s
    simp [heq]

/-- Every command ends with the completion of spec/44_pipeline.md R190 and leaves `OVR`. -/
theorem exec_completes (h : exec i s = .next t) :
    t.status.busy = false ∧ t.status.done = true ∧ t.seq = .idle ∧ t.status.ovr = s.status.ovr := by
  obtain ⟨e, -, rfl⟩ | ⟨-, rfl⟩ := exec_next h
  · simp
  · obtain ⟨w, d, sk, skv, tm, dr, heq, -⟩ := effectOf_frame i s
    simp [heq]

/-- Only `DERIVE` writes the subkeys and `SKV`, and only when it passes its check (spec/10_state.md R27). -/
theorem exec_subkeys (h : exec i s = .next t) :
    (t.sk = s.sk ∧ t.status.skv = s.status.skv) ∨ (i = .derive ∧ check .derive s = none ∧ t.status.skv = true) := by
  obtain ⟨e, -, rfl⟩ | ⟨hcheck, rfl⟩ := exec_next h
  · exact .inl ⟨rfl, rfl⟩
  · obtain ⟨w, d, sk, skv, tm, dr, heq, hkeep, -, hderive⟩ := effectOf_frame i s
    by_cases hi : i = .derive
    · subst hi
      exact .inr ⟨rfl, hcheck, by simp [heq, hderive]⟩
    · exact .inl (by simpa [heq] using hkeep hi)

theorem exec_keeps_dout (h : exec i s = .next t) (hstorew : i ≠ .storew) (hencrypt : i ≠ .encrypt)
    (hdecrypt : i ≠ .decrypt) : t.dout = s.dout := by
  obtain ⟨e, -, rfl⟩ | ⟨-, rfl⟩ := exec_next h
  · rfl
  · exact effectOf_dout hstorew hencrypt hdecrypt s

theorem exec_keeps_w (h : exec i s = .next t) (hi : i = .nop ∨ i = .derive ∨ i = .storew) : t.w = s.w := by
  obtain ⟨e, -, rfl⟩ | ⟨-, rfl⟩ := exec_next h
  · rfl
  · exact effectOf_w hi s

theorem exec_keeps_temps (h : exec i s = .next t) (hderive : i ≠ .derive) (hencrypt : i ≠ .encrypt)
    (hdecrypt : i ≠ .decrypt) : t.temps = s.temps ∧ t.draws = s.draws := by
  obtain ⟨e, -, rfl⟩ | ⟨-, rfl⟩ := exec_next h
  · exact ⟨rfl, rfl⟩
  · obtain ⟨w, d, sk, skv, tm, dr, heq, -, hkeep, -⟩ := effectOf_frame i s
    simpa [heq] using hkeep hderive hencrypt hdecrypt

end CommandFrame

/-- Settles O16, clause by clause from the lemmas above. -/
theorem commandsWriteOnlyTheirRegisters : Obligations.CommandsWriteOnlyTheirRegisters := by
  intro i s t h
  obtain ⟨hcfg, hcmd, hvar, hkey, hdin, hrst, hrdata, hinputs⟩ := exec_frame h
  obtain ⟨hbusy, hdone, hseq, hovr⟩ := exec_completes h
  have hsubkeys (hi : i ≠ .derive) : t.sk = s.sk ∧ t.status.skv = s.status.skv :=
    (exec_subkeys h).resolve_right fun ⟨hderive, _⟩ => hi hderive
  exact ⟨hcfg, hcmd, hvar, hkey, hdin, hrst, hrdata, hinputs, hbusy, hdone, hseq, hovr, hsubkeys, exec_keeps_dout h,
    exec_keeps_w h, exec_keeps_temps h⟩

end Sys2Proof.Machine

/-! ### What a turn leaves: the configuration and the subkeys (spec/10_state.md R26, R27, R32)

`step_subkeys` says once which steps touch `SK` and `SKV`; O40 and O41 read their clauses off it. -/

namespace Sys2Proof.Machine

section TurnFrame

variable {s t : State}

@[simp] theorem memWrite_cfg (i : RegIndex) (v : Word) (s : State) : (memWrite i v s).cfg = s.cfg := by
  obtain h | h | ⟨-, h⟩ | ⟨-, h | h | h | h⟩ := memWrite_cases i v s <;> simp [h]

@[simp] theorem memWrite_sk (i : RegIndex) (v : Word) (s : State) : (memWrite i v s).sk = s.sk := by
  obtain h | h | ⟨-, h⟩ | ⟨-, h | h | h | h⟩ := memWrite_cases i v s <;> simp [h]

/-- A write of `MODE`, index 2: dropped while busy, else accepted (spec/10_state.md R24, spec/20_memory.md R56). -/
theorem memWrite_mode (v : Word) (s : State) :
    memWrite 2 v s = if s.status.busy then s.dropWrite else s.writeMode v := rfl

/-- A host write keeps `SKV`, but for an accepted write of `MODE`. -/
theorem memWrite_skv (i : RegIndex) (v : Word) (s : State) :
    (memWrite i v s).status.skv = s.status.skv ∨
      (i = 2 ∧ s.status.busy = false ∧ (memWrite i v s).status.skv = false) := by
  by_cases hi : i = 2
  · subst hi
    cases hbusy : s.status.busy
    · exact .inr ⟨rfl, rfl, by rw [memWrite_mode, hbusy]; rfl⟩
    · exact .inl (by rw [memWrite_mode, hbusy]; rfl)
  · have hmode : regAt i ≠ .mode := fun h => hi (by rw [← regIndex_regAt i, h]; rfl)
    left
    unfold memWrite
    cases hr : regAt i with
    | mode => contradiction
    | cmd | key | din => cases s.status.busy <;> rfl
    | _ => rfl

@[simp] theorem driveRst_cfg (level : Bool) (s : State) : (driveRst level s).cfg = s.cfg := by
  cases level <;> rfl

/-- Driving `rst` high clears `SKV`, driving it low keeps it (spec/70_reset_and_hazards.md R250). -/
theorem driveRst_skv (level : Bool) (s : State) : (driveRst level s).status.skv = (s.status.skv && !level) := by
  cases level <;> simp [driveRst, Status.reset]

/-- R250: a turn while `rst` = 1 is the reset step. -/
theorem sequencerTurn_of_rst (h : s.rst = true) : sequencerTurn s = .next (takeReset s) := by
  simp [sequencerTurn, h]

theorem sequencerTurn_cfg (h : sequencerTurn s = .next t) : t.cfg = s.cfg := by
  obtain ⟨-, rfl⟩ | ⟨-, -, rfl⟩ | ⟨-, -, ⟨e, -, rfl⟩ | ⟨i, -, hexec⟩⟩ := sequencerTurn_next h
  · rfl
  · rfl
  · rfl
  · obtain ⟨hcfg, -⟩ := exec_frame hexec
    exact hcfg

/-- `DERIVE` passes its check exactly when the key fits (spec/60_exceptions.md R223). -/
theorem check_derive_eq_none_iff (s : State) : check .derive s = none ↔ keyFits s := by
  cases hv : s.var <;> simp [check, Instr.feistelOnly, Instr.spnOnly, kOutOfRange, readsSubkeys, readsKey, readsDin,
    keyFits, hv]

/-- The next turn is the sequencer's. -/
def State.SequencerMoves (s : State) : Prop := s.inputs = [] ∨ ∃ es, s.inputs = .sequencer :: es

/-- The next turn executes a `DERIVE` whose key fits. -/
def State.DerivesNext (s : State) : Prop :=
  s.SequencerMoves ∧ s.seq = .run ∧ s.rst = false ∧ decode s.cmd = .ok .derive ∧ keyFits s

/-- The next turn is a reset step (spec/70_reset_and_hazards.md R250). -/
def State.ResetsNext (s : State) : Prop := (∃ es, s.inputs = .rst true :: es) ∨ (s.rst = true ∧ s.SequencerMoves)

/-- The next turn is an accepted `MODE` write (spec/10_state.md R24). -/
def State.WritesModeNext (s : State) : Prop :=
  ∃ v es, s.inputs = .write 2 v :: es ∧ s.rst = false ∧ s.status.busy = false

/-- The sequencer's turn keeps `SK` and `SKV`, or is a reset step, or executes a `DERIVE` whose key fits. -/
theorem sequencerTurn_subkeys (h : sequencerTurn s = .next t) :
    (t.sk = s.sk ∧ t.status.skv = s.status.skv) ∨ (s.rst = true ∧ t.status.skv = false) ∨
      (s.seq = .run ∧ s.rst = false ∧ decode s.cmd = .ok .derive ∧ keyFits s ∧ t.status.skv = true) := by
  obtain ⟨hrst, rfl⟩ | ⟨-, -, rfl⟩ | ⟨hrst, hseq, ⟨e, -, rfl⟩ | ⟨i, hdecode, hexec⟩⟩ := sequencerTurn_next h
  · exact .inr (.inl ⟨hrst, rfl⟩)
  · exact .inl ⟨rfl, rfl⟩
  · exact .inl ⟨rfl, rfl⟩
  · obtain hkeep | ⟨rfl, hcheck, hskv⟩ := exec_subkeys hexec
    · exact .inl hkeep
    · exact .inr (.inr ⟨hseq, hrst, hdecode, (check_derive_eq_none_iff s).mp hcheck, hskv⟩)

/-- Everything a step can do to the subkeys: keep `SK` and `SKV`, or derive and set `SKV`, or reset and clear it, or
write `MODE` and clear it. -/
theorem step_subkeys (h : step s = .next t) :
    (t.sk = s.sk ∧ t.status.skv = s.status.skv) ∨ (s.DerivesNext ∧ t.status.skv = true) ∨
      (s.ResetsNext ∧ t.status.skv = false) ∨ (s.WritesModeNext ∧ t.sk = s.sk ∧ t.status.skv = false) := by
  obtain ⟨i, es, -, rfl⟩ | ⟨i, v, es, hin, rfl⟩ | ⟨level, es, hin, rfl⟩ | ⟨es, hin, hturn⟩ := step_next h
  · left
    cases s.rst <;> exact ⟨rfl, rfl⟩
  · cases hrst : s.rst
    · obtain hskv | ⟨rfl, hbusy, hskv⟩ := memWrite_skv i v (s.setInputs es)
      · exact .inl ⟨by simp, by simpa using hskv⟩
      · exact .inr (.inr (.inr ⟨⟨v, es, hin, hrst, hbusy⟩, by simp, by simpa using hskv⟩))
    · exact .inl ⟨rfl, rfl⟩
  · cases level
    · exact .inl ⟨rfl, rfl⟩
    · exact .inr (.inr (.inl ⟨.inl ⟨es, hin⟩, rfl⟩))
  · have hmoves : s.SequencerMoves := hin.elim (fun h => .inr ⟨es, h⟩) fun ⟨h, _⟩ => .inl h
    obtain hkeep | ⟨hrst, hskv⟩ | ⟨hseq, hrst, hdecode, hfits, hskv⟩ := sequencerTurn_subkeys hturn
    · exact .inl hkeep
    · exact .inr (.inr (.inl ⟨.inr ⟨hrst, hmoves⟩, hskv⟩))
    · exact .inr (.inl ⟨⟨hmoves, hseq, hrst, hdecode, hfits⟩, hskv⟩)

end TurnFrame

/-- Settles O13, by the four kinds of turn. -/
theorem configurationNeverChanges : Obligations.ConfigurationNeverChanges := by
  intro s t h
  obtain ⟨i, es, -, rfl⟩ | ⟨i, v, es, -, rfl⟩ | ⟨level, es, -, rfl⟩ | ⟨es, -, hturn⟩ := step_next h
  · cases s.rst <;> rfl
  · cases s.rst <;> simp
  · simp
  · simpa using sequencerTurn_cfg hturn

/-- Settles O41: of the turns `step_subkeys` lists, two write `SK`. -/
theorem onlyDeriveAndResetWriteSubkeys : Obligations.OnlyDeriveAndResetWriteSubkeys := by
  intro s t h hsk
  obtain ⟨hkeep, -⟩ | ⟨hderives, -⟩ | ⟨hresets, -⟩ | ⟨-, hkeep, -⟩ := step_subkeys h
  · contradiction
  · exact .inl hderives
  · exact .inr hresets
  · contradiction

/-- A command that reads subkeys fails its check while `SKV` = 0, with `ERR_NOKEY` unless an earlier check of R223
fails (spec/10_state.md R26). -/
theorem check_of_no_subkeys {i : Instr} {s : State} (hskv : s.status.skv = false) (hreads : readsSubkeys i = true) :
    ∃ e, check i s = some e ∧ ((i.feistelOnly = true → s.var = .feistel8) → (i.spnOnly = true → s.var = .spn16) →
      kOutOfRange s.cfg i = false → e = .nokey) := by
  by_cases hfeistel : i.feistelOnly = true ∧ s.var = .spn16
  · exact ⟨.mode, by simp [check, hfeistel], fun h => by simp [hfeistel] at h⟩
  by_cases hspn : i.spnOnly = true ∧ s.var = .feistel8
  · exact ⟨.mode, by simp [check, hspn], fun _ h => by simp [hspn] at h⟩
  by_cases hk : kOutOfRange s.cfg i = true
  · exact ⟨.kidx, by simp [check, hfeistel, hspn, hk], fun _ _ h => by simp [hk] at h⟩
  · exact ⟨.nokey, by simp [check, hfeistel, hspn, hk, hreads, hskv], fun _ _ _ => rfl⟩

theorem errorCode_ne_zero (e : CmdError) : errorCode e ≠ 0 := by cases e <;> decide

/-- Settles O40: the clauses on steps from `step_subkeys`, the others from the operation each speaks of. -/
theorem skvIsSetByDeriveAndClearedByModeAndReset : Obligations.SkvIsSetByDeriveAndClearedByModeAndReset := by
  refine ⟨fun s hfits => ?derive, fun s t h h0 h1 => ?set, fun s level v => ⟨fun hrst => ?held, fun hbusy => ?mode, ?edge⟩,
    fun s t h h1 h0 => ?cleared, fun s i hskv hreads => ?gate⟩
  case derive => exact ⟨_, exec_of_check_none ((check_derive_eq_none_iff s).mpr hfits), rfl⟩
  case set =>
    obtain ⟨-, hkeep⟩ | ⟨hderives, -⟩ | ⟨-, hclear⟩ | ⟨-, -, hclear⟩ := step_subkeys h
    · simp [h0, h1] at hkeep
    · exact hderives
    · simp [h1] at hclear
    · simp [h1] at hclear
  case held => exact ⟨_, sequencerTurn_of_rst hrst, rfl⟩
  case mode => rw [memWrite_mode, hbusy]; rfl
  case edge => exact driveRst_skv level s
  case cleared =>
    obtain ⟨-, hkeep⟩ | ⟨-, hset⟩ | ⟨hresets, -⟩ | ⟨hmode, -, -⟩ := step_subkeys h
    · simp [h0, h1] at hkeep
    · simp [h0] at hset
    · exact hresets.elim .inl fun hheld => .inr (.inl hheld)
    · exact .inr (.inr hmode)
  case gate =>
    obtain ⟨e, hcheck, hnokey⟩ := check_of_no_subkeys hskv hreads
    exact ⟨errorCode e, errorCode_ne_zero e, exec_of_check_some hcheck,
      fun hfeistel hspn hk => congrArg errorCode (hnokey hfeistel hspn hk)⟩

end Sys2Proof.Machine

/-! ### `KEY` is read by `DERIVE` only (spec/10_state.md R25, spec/70_reset_and_hazards.md R262)

The check and the effect of any other command commute with a write of `KEY`. -/

namespace Sys2Proof.Machine

section KeyWrite

variable {i : Instr} (s : State) (v : Word)

theorem stageEffect_writeKey (i : Instr) : stageEffect i (s.writeKey v) = (stageEffect i s).writeKey v := by
  cases i <;> rfl

theorem runStages_writeKey (stages : List Instr) :
    runStages stages (s.writeKey v) = (runStages stages s).writeKey v := by
  induction stages generalizing s with
  | nil => rfl
  | cons i rest ih =>
    calc runStages rest (stageEffect i (s.writeKey v))
      _ = runStages rest ((stageEffect i s).writeKey v) := by rw [stageEffect_writeKey]
      _ = (runStages rest (stageEffect i s)).writeKey v := ih _

theorem readsKey_of_ne_derive (hi : i ≠ .derive) : readsKey i = false := by
  cases i with
  | derive => contradiction
  | _ => rfl

theorem check_writeKey (hi : i ≠ .derive) : check i (s.writeKey v) = check i s := by
  simp [check, readsKey_of_ne_derive hi]

theorem effectOf_writeKey (hi : i ≠ .derive) : effectOf i (s.writeKey v) = (effectOf i s).writeKey v := by
  cases i with
  | derive => contradiction
  | encrypt => exact congrArg State.dropTemps (runStages_writeKey s v (encryptStages s.cfg s.var))
  | decrypt => exact congrArg State.dropTemps (runStages_writeKey s v (decryptStages s.cfg s.var))
  | _ => rfl

end KeyWrite

/-- Settles O43: the state with another `KEY` is the state after a write of `KEY`. -/
theorem onlyDeriveReadsTheKey : Obligations.OnlyDeriveReadsTheKey := by
  intro i s v hi
  have hcheck := check_writeKey s v hi
  cases hc : check i s with
  | some e => exact ⟨_, exec_of_check_some hc, exec_of_check_some (hcheck.trans hc)⟩
  | none =>
    refine ⟨_, exec_of_check_none hc, ?_⟩
    calc exec i (s.writeKey v)
      _ = .next (effectOf i (s.writeKey v)).complete := exec_of_check_none (hcheck.trans hc)
      _ = .next ((effectOf i s).writeKey v).complete := by rw [effectOf_writeKey s v hi]

end Sys2Proof.Machine

/-! ### `STATUS` as a word (spec/10_state.md R22) -/

namespace Sys2Proof.Machine

/-- Bit i of `STATUS` as a host reads it: the four flags from bit 0, then `ERR`, then zeros. -/
theorem readReg_status_getLsbD (s : State) (i : Nat) :
    (s.readReg .status).getLsbD i =
      if i < 4 then [s.status.busy, s.status.done, s.status.skv, s.status.ovr].getD i false
      else if i < 7 then s.status.err.getLsbD (i - 4) else false := by
  simp only [State.readReg, statusWord, BitVec.getLsbD_append, BitVec.getLsbD_ofBool]
  obtain rfl | rfl | rfl | rfl | h : i = 0 ∨ i = 1 ∨ i = 2 ∨ i = 3 ∨ 4 ≤ i := by omega
  · simp
  · simp
  · simp
  · simp
  · simp [Nat.sub_sub, show ¬ i < 4 by omega, show i ≠ 0 by omega, show i - 1 ≠ 0 by omega, show i - 2 ≠ 0 by omega,
      show i - 3 ≠ 0 by omega, show i - 4 < 3 ↔ i < 7 by omega]

/-- Settles O51: each field from the bits of the word. -/
theorem statusReadsItsFields : Obligations.StatusReadsItsFields := by
  intro s
  have hbit := readReg_status_getLsbD s
  refine ⟨rfl, hbit 0, hbit 1, hbit 2, hbit 3, BitVec.eq_of_getLsbD_eq fun i hi => ?err,
    BitVec.eq_of_getLsbD_eq fun i hi => ?reserved⟩
  case err =>
    rw [BitVec.getLsbD_extractLsb', hbit]
    simp [-BitVec.getLsbD_eq_getElem, hi, show 4 + i < 7 by omega]
  case reserved =>
    rw [BitVec.getLsbD_extractLsb', hbit]
    simp [show ¬ 7 + i < 4 by omega]

end Sys2Proof.Machine

/-! ### The invariant (spec/10_state.md R22 to R30)

The end of a command decides every clause about the phase, so a command owes only the clauses of `State.DataInv`: the
error or the effect keeps them (`DataInv.raise`, `DataInv.effectOf`), and the completion turns them into the invariant. -/

namespace Sys2Proof.Machine

/-! #### The subkeys `DERIVE` writes -/

theorem feistelRoundKeys_length (p8 shifts : List Nat) (l r : Half5) :
    (feistelRoundKeys p8 shifts l r).length = shifts.length := by
  induction shifts generalizing l r with
  | nil => rfl
  | cons n rest ih => simp [feistelRoundKeys, ih]

theorem feistelSubkeys_length_le (c : Configuration) (key : Key10) : (feistelSubkeys c key).length ≤ c.nrF := by
  simp [feistelSubkeys, feistelRoundKeys_length]

/-- Every slot outside the Subkey Set is 0x0000 (spec/41_keyschedule.md R132, R137). -/
theorem slot_subkeySet_unused (c : Configuration) (var : Variant) (key : Word) (k : Fin 8)
    (h : usedSlot c var k.val = false) : slot (subkeySet c var key) k.val = 0x0000 := by
  cases var with
  | feistel8 =>
    rw [subkeySet, feistelSchedule, slot_skFile _ k.isLt]
    split
    · rfl
    · have hlen := feistelSubkeys_length_le c (keyLow10 key)
      have hk : c.nrF < k.val := by simp [usedSlot] at h; omega
      rw [List.getD_eq_default _ _ (by omega)]
      rfl
  | spn16 =>
    rw [subkeySet, wordSchedule, slot_skFile _ k.isLt]
    exact if_neg (by simpa [usedSlot] using h)

/-- A FEISTEL8 subkey is `zext_16` of 8 bits (spec/41_keyschedule.md R132). -/
theorem highByte_slot_subkeySet_feistel (c : Configuration) (key : Word) (k : Fin 8) :
    highByte (slot (subkeySet c .feistel8 key) k.val) = 0 := by
  rw [subkeySet, feistelSchedule, slot_skFile _ k.isLt]
  split
  · rfl
  · exact highByte_zext16 _

/-! #### `W[15:8]` under FEISTEL8 (spec/10_state.md R29) -/

theorem highByte_zero : highByte 0x0000 = 0 := rfl

theorem stageEffect_var (i : Instr) (s : State) : (stageEffect i s).var = s.var := by cases i <;> rfl

/-- Every stage that is not marked SPN16 keeps `W[15:8]` = 0 under FEISTEL8: it writes a `zext_16` or no `W`. -/
theorem highByte_stageEffect_w {i : Instr} {s : State} (hi : i.spnOnly = false) (hvar : s.var = .feistel8)
    (hw : highByte s.w = 0) : highByte (stageEffect i s).w = 0 := by
  cases i with
  | ark | nsub | insub | shuf | ishuf => cases hi
  | nop | derive | encrypt | decrypt | storew => exact hw
  | loadw => simp [stageEffect, loadwEffect, inputBlock, hvar]
  | ip | fp | fk | swap => exact highByte_zext16 _

theorem highByte_runStages_w {stages : List Instr} {s : State} (hstages : ∀ i ∈ stages, i.spnOnly = false)
    (hvar : s.var = .feistel8) (hw : highByte s.w = 0) : highByte (runStages stages s).w = 0 := by
  induction stages generalizing s with
  | nil => exact hw
  | cons i rest ih =>
    obtain ⟨hi, hrest⟩ := List.forall_mem_cons.mp hstages
    exact ih hrest ((stageEffect_var i s).trans hvar) (highByte_stageEffect_w hi hvar hw)

/-- No stage of a FEISTEL8 composite is marked SPN16, whatever the order of its rounds (spec/44_pipeline.md R195,
R196). -/
theorem spnOnly_feistelStages (rounds : List Nat) (swaps : Nat → Prop) [DecidablePred swaps] :
    ∀ i ∈ [Instr.loadw, .ip] ++ rounds.flatMap (fun r => if swaps r then [.fk r, .swap] else [.fk r]) ++ [.fp, .storew],
      i.spnOnly = false := by
  have hround (r : Nat) : ∀ i ∈ (if swaps r then [Instr.fk r, .swap] else [.fk r]), i.spnOnly = false := by
    split <;> simp [Instr.spnOnly]
  intro i hi
  simp only [List.mem_append, List.mem_flatMap, List.mem_cons, List.not_mem_nil, or_false] at hi
  obtain ((rfl | rfl) | ⟨r, -, hr⟩) | rfl | rfl := hi
  · rfl
  · rfl
  · exact hround r i hr
  · rfl
  · rfl

theorem spnOnly_encryptStages (c : Configuration) : ∀ i ∈ encryptStages c .feistel8, i.spnOnly = false :=
  spnOnly_feistelStages (List.range' 1 c.nrF) (· < c.nrF)

theorem spnOnly_decryptStages (c : Configuration) : ∀ i ∈ decryptStages c .feistel8, i.spnOnly = false :=
  spnOnly_feistelStages (List.range' 1 c.nrF).reverse (1 < ·)

/-- A command that passes its check keeps `W[15:8]` = 0 under FEISTEL8. -/
theorem highByte_effectOf_w {i : Instr} {s : State} (hcheck : check i s = none) (hvar : s.var = .feistel8)
    (hw : highByte s.w = 0) : highByte (effectOf i s).w = 0 := by
  obtain ⟨-, hspn, -⟩ := check_none hcheck
  have hi : i.spnOnly = false := by
    rw [← Bool.not_eq_true]
    intro h
    simp [hspn h] at hvar
  cases i with
  | derive => exact hw
  | encrypt => exact highByte_runStages_w (hvar ▸ spnOnly_encryptStages s.cfg) hvar hw
  | decrypt => exact highByte_runStages_w (hvar ▸ spnOnly_decryptStages s.cfg) hvar hw
  | _ => exact highByte_stageEffect_w hi hvar hw

/-! #### A command -/

/-- The clauses of `State.Inv` that do not speak of the phase of a command. -/
structure State.DataInv (s : State) : Prop where
  configuration : s.cfg.wellFormed = true
  error_code : s.status.err.toNat ≤ 5
  work_block : s.var = .feistel8 → highByte s.w = 0
  unused_slots : s.status.skv = true → ∀ k : Fin 8, usedSlot s.cfg s.var k.val = false → slot s.sk k.val = 0x0000
  subkey_width : s.status.skv = true → s.var = .feistel8 → ∀ k : Fin 8, highByte (slot s.sk k.val) = 0

section StepsKeepInvariant

variable {s t : State}

theorem State.Inv.dataInv (h : s.Inv) : s.DataInv :=
  ⟨h.configuration, h.error_code, h.work_block, h.unused_slots, h.subkey_width⟩

/-- The completion gives the clauses about the phase (spec/44_pipeline.md R190). -/
theorem State.DataInv.complete (h : s.DataInv) : s.complete.Inv where
  configuration := h.configuration
  seq_iff_busy := by simp
  busy_or_done := by simp
  error_code := h.error_code
  error_done := by simp
  work_block := h.work_block
  unused_slots := h.unused_slots
  subkey_width := h.subkey_width
  reset_idle := by simp

theorem State.DataInv.raise (h : s.DataInv) (e : CmdError) : (s.raise e).DataInv :=
  { h with error_code := errorCode_le e }

theorem State.DataInv.deriveEffect (h : s.DataInv) : (deriveEffect s).DataInv :=
  { h with
    unused_slots := fun _ => slot_subkeySet_unused s.cfg s.var s.key
    subkey_width := fun _ (hvar : s.var = .feistel8) k => by
      simp [Machine.deriveEffect, hvar, highByte_slot_subkeySet_feistel] }

theorem State.DataInv.effectOf {i : Instr} (h : s.DataInv) (hcheck : check i s = none) : (effectOf i s).DataInv := by
  by_cases hi : i = .derive
  · subst hi
    exact h.deriveEffect
  · have hw := highByte_effectOf_w (i := i) (s := s) hcheck
    obtain ⟨w, d, sk, skv, tm, dr, heq, hkeep, -⟩ := effectOf_frame i s
    obtain ⟨rfl, rfl⟩ := hkeep hi
    rw [heq] at hw ⊢
    exact { h with work_block := fun hvar => hw hvar (h.work_block hvar) }

theorem State.DataInv.exec {i : Instr} (h : s.DataInv) (hexec : exec i s = .next t) : t.Inv := by
  obtain ⟨e, -, rfl⟩ | ⟨hcheck, rfl⟩ := exec_next hexec
  · exact (h.raise e).complete
  · exact (h.effectOf hcheck).complete

/-! #### A reset step, a host access, a step -/

/-- A state with the reset values meets the invariant whatever `SK` holds (spec/70_reset_and_hazards.md R251). -/
theorem State.inv_of_reset_values (hcfg : s.cfg.wellFormed = true) (hstatus : s.status = Status.reset)
    (hseq : s.seq = .idle) (hw : s.w = 0x0000) : s.Inv where
  configuration := hcfg
  seq_iff_busy := by simp [hseq, hstatus, Status.reset]
  busy_or_done := by simp [hstatus, Status.reset]
  error_code := by simp [hstatus, Status.reset]
  error_done := by simp [hstatus, Status.reset]
  work_block _ := hw ▸ highByte_zero
  unused_slots := by simp [hstatus, Status.reset]
  subkey_width := by simp [hstatus, Status.reset]
  reset_idle _ := hseq

theorem State.Inv.setInputs (h : s.Inv) (es : List Input) : (s.setInputs es).Inv := { h with }

theorem State.Inv.takeReset (h : s.Inv) : (takeReset s).Inv :=
  State.inv_of_reset_values h.configuration rfl rfl rfl

theorem State.Inv.driveRst (h : s.Inv) (level : Bool) : (driveRst level s).Inv := by
  cases level with
  | false => exact { h with reset_idle := fun hrst => by cases hrst }
  | true => exact State.inv_of_reset_values h.configuration rfl rfl rfl

theorem State.Inv.memRead (h : s.Inv) (i : RegIndex) : (memRead i s).Inv := { h with }

/-- An accepted `CMD` write starts a command, with `DONE` and `ERR` cleared (spec/20_memory.md R55). -/
theorem State.Inv.acceptCmd (h : s.Inv) (hrst : s.rst = false) (v : Word) : (s.acceptCmd v).Inv :=
  { h with
    seq_iff_busy := by simp
    busy_or_done := by simp
    error_code := by simp
    error_done := by simp
    reset_idle := by simp [hrst] }

/-- An accepted `MODE` write clears `W` and `SKV` (spec/10_state.md R24). -/
theorem State.Inv.writeMode (h : s.Inv) (v : Word) : (s.writeMode v).Inv :=
  { h with
    work_block := fun _ => highByte_zero
    unused_slots := by simp
    subkey_width := by simp }

theorem State.Inv.memWrite (h : s.Inv) (hrst : s.rst = false) (i : RegIndex) (v : Word) : (memWrite i v s).Inv := by
  obtain heq | heq | ⟨-, heq⟩ | ⟨-, heq | heq | heq | heq⟩ := memWrite_cases i v s <;> rw [heq]
  · exact h
  · exact { h with }
  · exact { h with }
  · exact h.acceptCmd hrst v
  · exact h.writeMode v
  · exact { h with }
  · exact { h with }

theorem State.Inv.sequencerTurn (h : s.Inv) (hturn : sequencerTurn s = .next t) : t.Inv := by
  obtain ⟨-, rfl⟩ | ⟨-, -, rfl⟩ | ⟨-, -, ⟨e, -, rfl⟩ | ⟨i, -, hexec⟩⟩ := sequencerTurn_next hturn
  · exact h.takeReset
  · exact h
  · exact (h.dataInv.raise .illegal).complete
  · exact h.dataInv.exec hexec

end StepsKeepInvariant

/-- Settles O15, by the four kinds of turn. -/
theorem everyStepKeepsInvariant : Obligations.EveryStepKeepsInvariant := by
  intro s t hinv h
  have hs := hinv.setInputs
  obtain ⟨i, es, -, rfl⟩ | ⟨i, v, es, -, rfl⟩ | ⟨level, es, -, rfl⟩ | ⟨es, -, hturn⟩ := step_next h
  · cases s.rst
    · exact (hs es).memRead i
    · exact hs es
  · cases hrst : s.rst
    · exact (hs es).memWrite hrst i v
    · exact hs es
  · exact (hs es).driveRst level
  · exact (hs es).sequencerTurn hturn

/-- Settles O14: the reference configuration is well formed, and the registers hold the reset values. -/
theorem resetMeetsInvariant : Obligations.ResetMeetsInvariant :=
  State.inv_of_reset_values (by decide) rfl rfl rfl

end Sys2Proof.Machine

/-! ### The register port (spec/20_memory.md R51 to R58, R62, R66)

What a write of each index does, then what a host access leaves, and a turn at the head of the list of inputs. -/

namespace Sys2Proof.Machine

section RegisterPort

variable {s : State} {i : RegIndex}

/-! #### Writes, index by index -/

theorem memWrite_cmd (v : Word) (s : State) :
    memWrite 0 v s = if s.status.busy then s.dropWrite else s.acceptCmd v := rfl

theorem memWrite_status (v : Word) (s : State) : memWrite 1 v s = s.writeStatus v := rfl

theorem memWrite_key (v : Word) (s : State) :
    memWrite 3 v s = if s.status.busy then s.dropWrite else s.writeKey v := rfl

theorem memWrite_din (v : Word) (s : State) :
    memWrite 4 v s = if s.status.busy then s.dropWrite else s.writeDin v := rfl

/-- The registers at the indices 5..15 are read-only or reserved (spec/10_state.md R20). -/
theorem regAt_of_five_le (h : 5 ≤ i.toNat) :
    regAt i = .dout ∨ regAt i = .w ∨ regAt i = .reserved ∨ ∃ k, regAt i = .sk k := by
  revert i
  decide

/-- R58: a write of a read-only or reserved index has no effect. -/
theorem memWrite_of_five_le (h : 5 ≤ i.toNat) (v : Word) (s : State) : memWrite i v s = s := by
  obtain hr | hr | hr | ⟨k, hr⟩ := regAt_of_five_le h <;> simp only [memWrite, hr]

/-- What a write of a writable operand does while busy, whichever it is (R56). -/
theorem memWrite_operand_busy (hi : i = 0 ∨ i = 2 ∨ i = 3 ∨ i = 4) (hbusy : s.status.busy = true) (v : Word) :
    memWrite i v s = s.dropWrite := by
  obtain rfl | rfl | rfl | rfl := hi
  · rw [memWrite_cmd, if_pos hbusy]
  · rw [memWrite_mode, if_pos hbusy]
  · rw [memWrite_key, if_pos hbusy]
  · rw [memWrite_din, if_pos hbusy]

/-- Everything a host write can do while busy: nothing, or a change of `OVR`. -/
theorem memWrite_busy (hbusy : s.status.busy = true) (i : RegIndex) (v : Word) :
    ∃ ovr, memWrite i v s = { s with status := { s.status with ovr := ovr } } := by
  obtain h | h | ⟨-, h⟩ | ⟨hidle, -⟩ := memWrite_cases i v s
  · exact ⟨s.status.ovr, h⟩
  · exact ⟨_, h⟩
  · exact ⟨true, h⟩
  · simp [hbusy] at hidle

@[simp] theorem memWrite_dout (i : RegIndex) (v : Word) (s : State) : (memWrite i v s).dout = s.dout := by
  obtain h | h | ⟨-, h⟩ | ⟨-, h | h | h | h⟩ := memWrite_cases i v s <;> simp [h]

/-- A host write keeps `W`, but for an accepted write of `MODE`, which clears `W` and `SKV` (spec/10_state.md R24). -/
theorem memWrite_w_or_writeMode (i : RegIndex) (v : Word) (s : State) :
    (memWrite i v s).w = s.w ∨ (i = 2 ∧ memWrite i v s = s.writeMode v) := by
  have hi : regIndex (regAt i) = i := regIndex_regAt i
  unfold memWrite
  cases hr : regAt i with
  | mode =>
    rw [hr] at hi
    cases s.status.busy
    · exact .inr ⟨hi.symm, rfl⟩
    · exact .inl rfl
  | cmd | key | din => exact .inl (by cases s.status.busy <;> rfl)
  | _ => exact .inl rfl

/-! #### `STATUS` and `MODE` -/

theorem statusWrite_of_bit3 {v : Word} (h : v.getLsbD 3 = true) (f : Status) :
    statusWrite v f = { f with ovr := false } := by
  simp only [statusWrite, h, Bool.not_true, Bool.and_false]

theorem statusWrite_of_not_bit3 {v : Word} (h : v.getLsbD 3 = false) (f : Status) : statusWrite v f = f := by
  simp only [statusWrite, h, Bool.not_false, Bool.and_true]

/-- `MODE` reads back the bit written, extended by zeros (spec/10_state.md R24, spec/20_memory.md R53). -/
theorem modeWord_variantOf (v : Word) : modeWord (variantOf v) = (v.extractLsb' 0 1).zeroExtend 16 := by
  have hbit : v.extractLsb' 0 1 = BitVec.ofBool (v.getLsbD 0) := by
    ext j hj
    simp [show j = 0 by omega]
  rw [hbit, variantOf]
  cases v.getLsbD 0 <;> rfl

/-! #### Reads -/

/-- The indices whose answer is free while busy: `DOUT`, `W` and `SK` (R57). -/
theorem unstableWhileBusy_regAt_iff (i : RegIndex) :
    unstableWhileBusy (regAt i) = true ↔ i = 5 ∨ i = 6 ∨ 8 ≤ i.toNat := by
  revert i
  decide

/-- Every other index answers exactly (R53). -/
theorem unstableWhileBusy_regAt_eq_false_iff (i : RegIndex) :
    unstableWhileBusy (regAt i) = false ↔ i.toNat ≤ 4 ∨ i = 7 := by
  revert i
  decide

theorem slot_eq_getElem (sk : Vector Word 8) (k : Fin 8) : slot sk k.val = sk[k] := by
  simp [slot]

/-- The indices 8..15 read the slots of `SK` (spec/10_state.md R20). -/
theorem readReg_regAt_sk (s : State) (k : Fin 8) : s.readReg (regAt (BitVec.ofNat 4 (8 + k.val))) = s.sk[k] :=
  calc s.readReg (regAt (regIndex (.sk k)))
    _ = s.readReg (.sk k) := by rw [regAt_regIndex]
    _ = s.sk[k] := slot_eq_getElem s.sk k

/-! #### Turns -/

/-- With inputs waiting, a step takes the first. -/
theorem step_of_inputs_cons {e : Input} {es : List Input} (hcfg : s.cfg.wellFormed = true) (h : s.inputs = e :: es) :
    step s = takeInput e (s.setInputs es) := by
  rw [step_of_wellFormed hcfg, nextTurn, h]

/-- With no input waiting and the reset line low, a step is the sequencer's. -/
theorem step_of_inputs_nil (hcfg : s.cfg.wellFormed = true) (h : s.inputs = []) (hrst : s.rst = false) :
    step s = runSequencer s := by
  rw [step_of_wellFormed hcfg, nextTurn, h]
  simp [sequencerTurn, hrst]

/-- R190: the running sequencer executes the command that `CMD` decodes to. -/
theorem runSequencer_of_decode_ok {c : Instr} (hseq : s.seq = .run) (h : decode s.cmd = .ok c) :
    runSequencer s = exec c s := by
  simp only [runSequencer, hseq, h]

/-- R222: the running sequencer ends an illegal word with code 1. -/
theorem runSequencer_of_decode_error {e : IllegalWord} (hseq : s.seq = .run) (h : decode s.cmd = .error e) :
    runSequencer s = .next (failed 1 s) := by
  simp only [runSequencer, hseq, h]
  rfl

/-- R55, R190: with the sequencer to move, the step after an accepted `CMD` write executes the command written. -/
theorem step_acceptCmd {v : Word} {c : Instr} (hcfg : s.cfg.wellFormed = true) (hin : s.inputs = [])
    (hrst : s.rst = false) (h : decode v = .ok c) : step (s.acceptCmd v) = exec c (s.acceptCmd v) :=
  calc step (s.acceptCmd v)
    _ = runSequencer (s.acceptCmd v) := step_of_inputs_nil (s := s.acceptCmd v) hcfg hin hrst
    _ = exec c (s.acceptCmd v) := runSequencer_of_decode_ok (s := s.acceptCmd v) rfl h

theorem ofNat_mod_two_pow (w v : Nat) : BitVec.ofNat w (v % 2 ^ w) = BitVec.ofNat w v :=
  BitVec.eq_of_toNat_eq (by simp)

/-- An instruction read from a 16-bit number is the decoder's reading of that word. -/
theorem decode_of_decodeTableWord {v : Nat} {c : Instr} (h : decodeTableWord 16 v = some c) :
    decode (BitVec.ofNat 16 v) = .ok c := by
  rw [decodeTableWord, if_pos (Nat.mod_lt v (by decide)), ofNat_mod_two_pow] at h
  cases hd : decode (BitVec.ofNat 16 v) with
  | error e => simp [hd, Except.toOption] at h
  | ok c' => simpa [hd, Except.toOption] using h

theorem State.withFetchWord_eq (s : State) (v : Nat) :
    s.withFetchWord 16 v = ({ s with rst := false, inputs := [] }).acceptCmd (BitVec.ofNat 16 v) := by
  rw [State.withFetchWord, State.withCommand, ofNat_mod_two_pow]

end RegisterPort

/-- Settles O44: the step takes the access at the head of the list. -/
theorem hostAccessIsOneStep : Obligations.HostAccessIsOneStep := by
  intro s i v es hcfg
  refine ⟨fun hin => ?read, fun hin => ?write⟩
  case read =>
    rw [step_of_inputs_cons hcfg hin, takeInput]
    exact ⟨fun hrst => congrArg _ (if_neg (by simp [hrst])), fun hrst => congrArg _ (if_pos hrst)⟩
  case write =>
    rw [step_of_inputs_cons hcfg hin, takeInput]
    exact ⟨fun hrst => congrArg _ (if_neg (by simp [hrst])), fun hrst => congrArg _ (if_pos hrst)⟩

/-- Settles O45: after the accepted write the sequencer runs and `CMD` holds the word. -/
theorem cmdWriteIsAcceptedWhileIdle : Obligations.CmdWriteIsAcceptedWhileIdle := by
  intro s v hidle
  have hwrite : memWrite 0 v s = s.acceptCmd v := by rw [memWrite_cmd, hidle]; rfl
  rw [hwrite]
  exact ⟨rfl, fun c hc => runSequencer_of_decode_ok rfl hc, fun e he => runSequencer_of_decode_error rfl he⟩

/-- Settles O46, index by index. -/
theorem modeKeyAndDinWritesWhileIdle : Obligations.ModeKeyAndDinWritesWhileIdle := by
  intro s v hidle
  refine ⟨⟨s.writeMode v, ?mode, rfl, modeWord_variantOf v⟩, ?key, ?din⟩
  case mode => rw [memWrite_mode, hidle]; rfl
  case key => rw [memWrite_key, hidle]; rfl
  case din => rw [memWrite_din, hidle]; rfl

/-- Settles O47: while busy a write changes at most `OVR`, and a read no register. -/
theorem writesWhileBusyAreDropped : Obligations.WritesWhileBusyAreDropped := by
  intro s i v hbusy
  refine ⟨fun hi => memWrite_operand_busy hi hbusy v, fun t ht => ?_⟩
  obtain rfl | rfl := ht
  · obtain ⟨ovr, h⟩ := memWrite_busy hbusy i v
    simp [h, hbusy]
  · obtain ⟨answer, draws, h⟩ := memRead_frame i s
    simp [h, hbusy]

/-- Settles O48: bit 3 of a `STATUS` write decides, and the other indices hold nothing the host can write. -/
theorem statusAndReadOnlyWrites : Obligations.StatusAndReadOnlyWrites := by
  intro s v
  rw [memWrite_status, State.writeStatus]
  exact ⟨fun h => by rw [statusWrite_of_bit3 h], fun h => by rw [statusWrite_of_not_bit3 h],
    fun i hi => memWrite_of_five_le hi v s⟩

/-- Settles O49, from the frames of a write and of a read. -/
theorem hostAccessesNeverWriteResults : Obligations.HostAccessesNeverWriteResults := by
  intro s i v
  have hw : (memWrite i v s).w = s.w ∨
      (i = 2 ∧ (memWrite i v s).w = 0x0000 ∧ (memWrite i v s).status.skv = false) :=
    (memWrite_w_or_writeMode i v s).imp_right fun ⟨hi, h⟩ => ⟨hi, by rw [h]; exact ⟨rfl, rfl⟩⟩
  obtain ⟨answer, draws, hread⟩ := memRead_frame i s
  exact ⟨⟨memWrite_dout i v s, memWrite_sk i v s, hw⟩, ⟨answer :: s.rdata, draws, hread⟩⟩

/-- Settles O50: which indices answer exactly is `unstableWhileBusy` at the register of the index. -/
theorem readsAnswerTheStoredWord : Obligations.ReadsAnswerTheStoredWord := by
  intro s i
  refine ⟨fun h => memRead_stable ?exact, fun hbusy hi => memRead_free ?free, rfl, rfl, rfl, rfl, rfl, rfl, rfl, rfl,
    readReg_regAt_sk s⟩
  case exact =>
    obtain hidle | hi := h
    · rw [hidle, Bool.false_and]
    · rw [(unstableWhileBusy_regAt_eq_false_iff i).mpr hi, Bool.and_false]
  case free => rw [hbusy, (unstableWhileBusy_regAt_iff i).mpr hi, Bool.and_true]

/-- Settles O8: the state is that of an accepted `CMD` write with the sequencer to move. -/
theorem fetchedWordRunsNext : Obligations.FetchedWordRunsNext := by
  intro s v i hcfg hword
  rw [State.withFetchWord_eq]
  have hdecode := decode_of_decodeTableWord hword
  exact ⟨step_acceptCmd (s := { s with rst := false, inputs := [] }) hcfg rfl rfl hdecode, rfl⟩

end Sys2Proof.Machine

/-! ### The command word (spec/30_encoding.md R71 to R77)

A word is its three fields; the decoder reads nothing but the fields, and the encoder writes nothing but them. One
equation per branch of `decode`, one inversion lemma, and the two directions of "decode and encode agree". -/

namespace Sys2Proof

section Encoding

variable {v : Word} {i : Instr}

/-! #### Fields -/

@[simp] theorem resField_commandWord (k : Nat) (op : BitVec 4) : resField (commandWord k op) = 0 :=
  (BitVec.extractLsb'_append_eq_of_le (by decide)).trans BitVec.extractLsb'_append_eq_left

@[simp] theorem kField_commandWord (k : Nat) (op : BitVec 4) : kField (commandWord k op) = BitVec.ofNat 3 k :=
  (BitVec.extractLsb'_append_eq_of_le (by decide)).trans BitVec.extractLsb'_append_eq_right

@[simp] theorem opField_commandWord (k : Nat) (op : BitVec 4) : opField (commandWord k op) = op :=
  BitVec.extractLsb'_append_eq_right

/-- The three fields are all the bits of a word (R71). -/
theorem fields_append (v : Word) : resField v ++ kField v ++ opField v = v := by
  have hhigh : resField v ++ kField v = v.extractLsb' 4 12 :=
    BitVec.extractLsb'_append_extractLsb'_eq_extractLsb' rfl
  have hall : v.extractLsb' 4 12 ++ opField v = v.extractLsb' 0 16 :=
    BitVec.extractLsb'_append_extractLsb'_eq_extractLsb' rfl
  rw [hhigh, hall, BitVec.extractLsb'_eq_self]

/-- A word without reserved bits is the command word of its `K` and `OP`. -/
theorem commandWord_fields (hres : resField v = 0) : commandWord (kField v).toNat (opField v) = v :=
  calc commandWord (kField v).toNat (opField v)
    _ = resField v ++ kField v ++ opField v := by simp [commandWord, hres]
    _ = v := fields_append v

/-- An index that fits the field is kept by it (R72). -/
theorem toNat_ofNat_index {k : Nat} (hk : k ≤ 7) : (BitVec.ofNat 3 k).toNat = k := by
  rw [BitVec.toNat_ofNat]
  exact Nat.mod_eq_of_lt (by omega)

/-! #### The operations without an operand -/

theorem plainOp_eq_none_iff (op : BitVec 4) : plainOp op = none ↔ op = 0x8 ∨ op = 0xA ∨ op = 0xF := by
  revert op
  decide

/-- A command without an operand is well formed, and its word and its row are its `OP` alone (R73, R77). -/
theorem plainOp_eq_some {op : BitVec 4} (h : plainOp op = some i) :
    i.wellFormed = true ∧ encode i = commandWord 0 op ∧ i.row = ⟨op.zeroExtend 16, 0xFFFF⟩ := by
  have hall : ∀ op : BitVec 4, ∀ i ∈ plainOp op,
      i.wellFormed = true ∧ encode i = commandWord 0 op ∧ i.row = ⟨op.zeroExtend 16, 0xFFFF⟩ := by decide
  exact hall op i h

/-! #### The branches of `decode` that give a command -/

theorem decode_of_op_fk (hres : resField v = 0) (hop : opField v = 0x8) : decode v = .ok (.fk (kField v).toNat) := by
  simp [decode, hres, hop]

theorem decode_of_op_ark (hres : resField v = 0) (hop : opField v = 0xA) : decode v = .ok (.ark (kField v).toNat) := by
  simp [decode, hres, hop]

theorem decode_of_plainOp (hres : resField v = 0) (hk : kField v = 0) (hop : plainOp (opField v) = some i) :
    decode v = .ok i := by
  have hplain : ¬(opField v = 0x8 ∨ opField v = 0xA ∨ opField v = 0xF) := by
    rw [← plainOp_eq_none_iff, hop]
    simp
  simp_all [decode]

/-- Everything a word that decodes can be. -/
theorem decode_eq_ok (h : decode v = .ok i) :
    resField v = 0 ∧ ((opField v = 0x8 ∧ i = .fk (kField v).toNat) ∨ (opField v = 0xA ∧ i = .ark (kField v).toNat) ∨
      (kField v = 0 ∧ plainOp (opField v) = some i)) := by
  unfold decode at h
  split at h
  · cases h
  next hres =>
  refine ⟨not_not.mp hres, ?_⟩
  split at h
  · cases h
  split at h
  next hfk => cases h; exact .inl ⟨hfk, rfl⟩
  split at h
  next hark => cases h; exact .inr (.inl ⟨hark, rfl⟩)
  split at h
  · cases h
  next hk =>
  split at h
  next hplain => cases h; exact .inr (.inr ⟨not_not.mp hk, hplain⟩)
  · cases h

/-- R75: the words that decode, by their fields. -/
theorem decode_eq_ok_iff_fields (v : Word) :
    (∃ i, decode v = .ok i) ↔
      resField v = 0 ∧ opField v ≠ 0xF ∧ (kField v = 0 ∨ opField v = 0x8 ∨ opField v = 0xA) := by
  constructor
  · rintro ⟨i, h⟩
    obtain ⟨hres, ⟨hop, -⟩ | ⟨hop, -⟩ | ⟨hk, hplain⟩⟩ := decode_eq_ok h
    · simp [hres, hop]
    · simp [hres, hop]
    · refine ⟨hres, fun hop => ?_, .inl hk⟩
      rw [(plainOp_eq_none_iff _).mpr (.inr (.inr hop))] at hplain
      cases hplain
  · rintro ⟨hres, hF, hk⟩
    by_cases h8 : opField v = 0x8
    · exact ⟨_, decode_of_op_fk hres h8⟩
    by_cases hA : opField v = 0xA
    · exact ⟨_, decode_of_op_ark hres hA⟩
    cases hplain : plainOp (opField v) with
    | none => simp_all [plainOp_eq_none_iff]
    | some i => exact ⟨i, decode_of_plainOp hres (hk.resolve_right (not_or.mpr ⟨h8, hA⟩)) hplain⟩

/-! #### Decode and encode agree -/

theorem decode_encode (h : i.wellFormed = true) : decode (encode i) = .ok i := by
  cases i with
  | fk k =>
    have hk : k ≤ 7 := by simpa [Instr.wellFormed] using h
    simp [encode, decode_of_op_fk, toNat_ofNat_index hk, -BitVec.toNat_ofNat]
  | ark k =>
    have hk : k ≤ 7 := by simpa [Instr.wellFormed] using h
    simp [encode, decode_of_op_ark, toNat_ofNat_index hk, -BitVec.toNat_ofNat]
  | _ => exact decode_of_plainOp (resField_commandWord ..) (kField_commandWord ..) rfl

theorem wellFormed_and_encode_of_decode (h : decode v = .ok i) : i.wellFormed = true ∧ encode i = v := by
  have hindex : (kField v).toNat ≤ 7 := Nat.le_of_lt_succ (kField v).isLt
  obtain ⟨hres, ⟨hop, rfl⟩ | ⟨hop, rfl⟩ | ⟨hk, hplain⟩⟩ := decode_eq_ok h
  · exact ⟨by simpa [Instr.wellFormed] using hindex, by rw [encode, ← hop, commandWord_fields hres]⟩
  · exact ⟨by simpa [Instr.wellFormed] using hindex, by rw [encode, ← hop, commandWord_fields hres]⟩
  · obtain ⟨hwf, hword, -⟩ := plainOp_eq_some hplain
    refine ⟨hwf, hword.trans ?_⟩
    simpa [hk] using commandWord_fields hres

end Encoding

/-- Settles O3, branch by branch of the decoder on the fields of the word. -/
theorem decodeOfEncodeIsTheInstruction : Obligations.DecodeOfEncodeIsTheInstruction :=
  fun _ h => decode_encode h

/-- Settles O4, by the fields of a word that decodes. -/
theorem encodeOfDecodeIsTheWord : Obligations.EncodeOfDecodeIsTheWord :=
  fun _ _ h => wellFormed_and_encode_of_decode h

/-- Settles O2: the illegal words are those that do not decode, and each clause on a legal word is a branch of `decode`. -/
theorem decodeIsTotalAndRejectsExactlyReservedWords : Obligations.DecodeIsTotalAndRejectsExactlyReservedWords := by
  intro v
  refine ⟨?illegal, decode_of_op_fk, decode_of_op_ark, fun hres hk h8 hA hF => ?plain⟩
  case illegal =>
    have herror : (∃ e, decode v = .error e) ↔ ¬∃ i, decode v = .ok i := by cases decode v <;> simp
    rw [herror, decode_eq_ok_iff_fields]
    change _ ↔ resField v ≠ 0 ∨ opField v = 0xF ∨ (kField v ≠ 0 ∧ opField v ≠ 0x8 ∧ opField v ≠ 0xA)
    tauto
  case plain =>
    obtain ⟨i, hi⟩ := (decode_eq_ok_iff_fields v).mpr ⟨hres, hF, .inl hk⟩
    obtain ⟨-, ⟨hop, -⟩ | ⟨hop, -⟩ | ⟨-, hplain⟩⟩ := decode_eq_ok hi
    · exact absurd hop h8
    · exact absurd hop hA
    · obtain ⟨-, -, hrow⟩ := plainOp_eq_some hplain
      exact ⟨i, hi, hrow⟩

/-- Settles O1: fifteen closed words. -/
theorem decodesTheWordsOfTheOpcodeMap : Obligations.DecodesTheWordsOfTheOpcodeMap := by
  unfold Obligations.DecodesTheWordsOfTheOpcodeMap
  decide

end Sys2Proof

/-! ### The rows of the opcode table (spec/30_encoding.md R77) -/

namespace Sys2Proof

section OpcodeTable

variable {v : Word} {i : Instr}

theorem row_mem_opcodeTable (i : Instr) : i.row ∈ opcodeTable := by
  cases i <;> simp [opcodeTable, Instr.row]

/-- The word of a well-formed instruction is covered by its row, whichever the instruction. -/
theorem row_covers_encode (h : i.wellFormed = true) : i.row.covers (encode i) = true := by
  cases i with
  | fk k => exact Laws.TableMatch.fk k h
  | ark k => exact Laws.TableMatch.ark k h
  | _ => rfl

/-- A word is covered by a row with the full mask exactly when it is the pattern. -/
theorem and_full_mask (v p : Word) : v &&& 0xFFFF = p ↔ v = p := by
  rw [show (0xFFFF : Word) = BitVec.allOnes 16 from rfl, BitVec.and_allOnes]

/-- The mask of `FK` and `ARK` leaves out the `K` field alone: `RES` is 0 and `OP` is the pattern's. -/
theorem fields_of_and_index_mask {op : BitVec 4} (h : v &&& 0xFF8F = commandWord 0 op) :
    resField v = 0 ∧ opField v = op := by
  constructor
  · calc resField v
      _ = resField v &&& resField 0xFF8F := BitVec.and_allOnes.symm
      _ = resField (v &&& 0xFF8F) := BitVec.extractLsb'_and.symm
      _ = 0 := by rw [h, resField_commandWord]
  · calc opField v
      _ = opField v &&& opField 0xFF8F := BitVec.and_allOnes.symm
      _ = opField (v &&& 0xFF8F) := BitVec.extractLsb'_and.symm
      _ = op := by rw [h, opField_commandWord]

/-- A word that matches a row decodes to a command of that row. -/
theorem decode_of_row_match (i : Instr) (h : v &&& i.row.mask = i.row.pattern) :
    ∃ j, decode v = .ok j ∧ j.row = i.row := by
  cases i with
  | fk k =>
    obtain ⟨hres, hop⟩ := fields_of_and_index_mask (op := 0x8) h
    exact ⟨_, decode_of_op_fk hres hop, rfl⟩
  | ark k =>
    obtain ⟨hres, hop⟩ := fields_of_and_index_mask (op := 0xA) h
    exact ⟨_, decode_of_op_ark hres hop, rfl⟩
  | _ =>
    rw [(and_full_mask v _).mp h]
    exact ⟨_, rfl, rfl⟩

/-- R77: a word matches the row of a command exactly when it decodes to a command of that row. -/
theorem row_match_iff (v : Word) (i : Instr) :
    v &&& i.row.mask = i.row.pattern ↔ ∃ j, decode v = .ok j ∧ j.row = i.row := by
  refine ⟨decode_of_row_match i, fun ⟨j, hj, hrow⟩ => ?_⟩
  obtain ⟨hwf, rfl⟩ := wellFormed_and_encode_of_decode hj
  rw [← hrow]
  exact beq_iff_eq.mp (row_covers_encode hwf)

/-- The bits of a command word with an index that fits the field. -/
theorem commandWord_eq_or {k : Nat} (hk : k ≤ 7) (op : BitVec 4) :
    commandWord k op = op.zeroExtend 16 ||| (BitVec.ofNat 16 k <<< 4) := by
  have hall : ∀ k : Fin 8, ∀ op : BitVec 4,
      commandWord k.val op = op.zeroExtend 16 ||| (BitVec.ofNat 16 k.val <<< 4) := by decide
  exact hall ⟨k, Nat.lt_succ_of_le hk⟩ op

end OpcodeTable

/-- Settles O5: a match is a decoding (`row_match_iff`), so two rows that match one word are the row of the one command
it decodes to. -/
theorem tableRowsMatchExactlyTheirCommands : Obligations.TableRowsMatchExactlyTheirCommands := by
  have hmatch : ∀ v : Word, ∀ r ∈ opcodeTable, v &&& r.mask = r.pattern ↔ ∃ i, decode v = .ok i ∧ i.row = r := by
    intro v r hr
    obtain ⟨i, -, rfl⟩ := List.mem_map.mp hr
    exact row_match_iff v i
  refine ⟨rfl, fun k => ⟨rfl, rfl⟩, row_mem_opcodeTable, hmatch, fun v r₁ hr₁ r₂ hr₂ h₁ h₂ => ?unique,
    fun k hk => ⟨commandWord_eq_or hk 0x8, commandWord_eq_or hk 0xA⟩⟩
  case unique =>
    obtain ⟨i, hi, rfl⟩ := (hmatch v r₁ hr₁).mp h₁
    obtain ⟨j, hj, rfl⟩ := (hmatch v r₂ hr₂).mp h₂
    rw [Except.ok.inj (hi.symm.trans hj)]

end Sys2Proof

/-! ### The assembler (spec/30_encoding.md R78) -/

namespace Sys2Proof.Machine

/-- A comment is dropped, whatever stands before it (R78). -/
theorem codeOfLine_comment (code comment : List Char) : codeOfLine (code ++ ';' :: comment) = codeOfLine code := by
  have htake : (code ++ ';' :: comment).takeWhile (· != ';') = code.takeWhile (· != ';') := by
    induction code with
    | nil => rfl
    | cons ch rest ih => simp only [List.cons_append, List.takeWhile_cons, ih]
  rw [codeOfLine, htake, codeOfLine]

theorem assembleLine_comment (code comment : List Char) :
    assembleLine (code ++ ';' :: comment) = assembleLine code := by
  rw [assembleLine, codeOfLine_comment, assembleLine]

theorem le_of_indexOperand {cs : List Char} {k : Nat} (h : indexOperand cs = some k) : k ≤ 7 := by
  simpa using (Option.filter_eq_some_iff.mp h).2

theorem wellFormed_of_lookup {code : List Char} {i : Instr} (h : plainMnemonics.lookup code = some i) :
    i.wellFormed = true := by
  obtain ⟨before, after, hsplit, -⟩ := List.lookup_eq_some_iff.mp h
  have hmem : (code, i) ∈ plainMnemonics := by simp [hsplit]
  have hall : ∀ p ∈ plainMnemonics, p.2.wellFormed = true := by decide
  exact hall _ hmem

theorem wellFormed_of_assembleLine {line : List Char} {i : Instr} (h : assembleLine line = some i) :
    i.wellFormed = true := by
  unfold assembleLine at h
  split at h
  · obtain ⟨k, hk, rfl⟩ := Option.map_eq_some_iff.mp h
    simpa [Instr.wellFormed] using le_of_indexOperand hk
  · obtain ⟨k, hk, rfl⟩ := Option.map_eq_some_iff.mp h
    simpa [Instr.wellFormed] using le_of_indexOperand hk
  · exact wellFormed_of_lookup h

/-- R78: every mnemonic of a command without an operand gives its command, and nothing with an operand. -/
theorem assembleLine_plainMnemonics :
    ∀ p ∈ plainMnemonics, assembleLine p.1 = some p.2 ∧ assembleLine (p.1 ++ [' ', '1']) = none := by decide

/-- R78: `FK` and `ARK` take an index 0..7. -/
theorem assembleLine_index (k : Fin 8) :
    assembleLine ['F', 'K', ' ', Char.ofNat (48 + k.val)] = some (.fk k.val) ∧
      assembleLine ['A', 'R', 'K', ' ', Char.ofNat (48 + k.val)] = some (.ark k.val) := by
  revert k
  decide

/-- Settles O6: the reader accepts an index only in range, finds the other commands in the table of mnemonics, and drops a
comment before it reads; the lines written out are evaluated. -/
theorem assemblerAcceptsOnlyWellFormedCommands : Obligations.AssemblerAcceptsOnlyWellFormedCommands := by
  refine ⟨fun _ _ => wellFormed_of_assembleLine, assembleLine_index, fun p hp => ?mnemonic, by decide, by decide, by decide,
    by decide, by decide⟩
  case mnemonic =>
    obtain ⟨halone, hoperand⟩ := assembleLine_plainMnemonics p hp
    exact ⟨halone, hoperand, fun comment => (assembleLine_comment p.1 comment).trans halone⟩

end Sys2Proof.Machine

/-! ### `RUN` (spec/30_encoding.md R80)

A command reads no port: with other answers on `rdata` and other turns to come it runs to the same state under those
(`exec_withPorts`). So the polls of `WAIT` add their answers and nothing else. -/

namespace Sys2Proof.Machine

/-- The state with other answers given on `rdata` and other turns to come. -/
def State.withPorts (answers : List Word) (es : List Input) (s : State) : State :=
  { s with rdata := answers, inputs := es }

section Run

variable {s t : State} {answers : List Word} {es : List Input}

/-! #### Commands and the port -/

theorem stageEffect_withPorts (i : Instr) (s : State) :
    stageEffect i (s.withPorts answers es) = (stageEffect i s).withPorts answers es := by
  cases i <;> rfl

theorem runStages_withPorts (stages : List Instr) (s : State) :
    runStages stages (s.withPorts answers es) = (runStages stages s).withPorts answers es := by
  induction stages generalizing s with
  | nil => rfl
  | cons i rest ih =>
    calc runStages rest (stageEffect i (s.withPorts answers es))
      _ = runStages rest ((stageEffect i s).withPorts answers es) := by rw [stageEffect_withPorts]
      _ = (runStages rest (stageEffect i s)).withPorts answers es := ih _

theorem effectOf_withPorts (i : Instr) (s : State) :
    effectOf i (s.withPorts answers es) = (effectOf i s).withPorts answers es := by
  cases i with
  | encrypt => exact congrArg State.dropTemps (runStages_withPorts (encryptStages s.cfg s.var) s)
  | decrypt => exact congrArg State.dropTemps (runStages_withPorts (decryptStages s.cfg s.var) s)
  | _ => rfl

theorem exec_withPorts {i : Instr} (h : exec i s = .next t) (answers : List Word) (es : List Input) :
    exec i (s.withPorts answers es) = .next (t.withPorts answers es) := by
  obtain ⟨e, hcheck, rfl⟩ | ⟨hcheck, rfl⟩ := exec_next h
  · exact exec_of_check_some (s := s.withPorts answers es) hcheck
  · rw [exec_of_check_none (s := s.withPorts answers es) hcheck, effectOf_withPorts]
    rfl

/-! #### The turns of `RUN` -/

theorem sequencerTurn_of_not_rst (h : s.rst = false) : sequencerTurn s = runSequencer s := by
  simp [sequencerTurn, h]

/-- `STATUS` reads its current fields, busy or not (spec/20_memory.md R53). -/
theorem memRead_status (s : State) :
    memRead (regIndex .status) s = { s with rdata := statusWord s.status :: s.rdata } :=
  memRead_stable (by simp [unstableWhileBusy])

/-- A poll of `STATUS` adds its answer and takes its turn off the list. -/
theorem step_poll (hcfg : s.cfg.wellFormed = true) (hrst : s.rst = false)
    (hin : s.inputs = .read (regIndex .status) :: es) :
    step s = .next (s.withPorts (statusWord s.status :: s.rdata) es) := by
  rw [step_of_inputs_cons hcfg hin, takeInput, memRead_status, if_neg (by simp [hrst])]
  rfl

/-- Polls of `STATUS` one after the other all answer the same word. -/
theorem run_polls (hcfg : s.cfg.wellFormed = true) (hrst : s.rst = false) (polls n : Nat) (answers : List Word) :
    Host.Core.run core (polls + n)
        (s.withPorts answers (List.replicate polls (.read (regIndex .status)) ++ es)) =
      Host.Core.run core n (s.withPorts (List.replicate polls (statusWord s.status) ++ answers) es) := by
  induction polls generalizing answers with
  | zero => simp
  | succ polls ih =>
    have hstep : step (s.withPorts answers (List.replicate (polls + 1) (.read (regIndex .status)) ++ es)) =
        .next (s.withPorts (statusWord s.status :: answers)
          (List.replicate polls (.read (regIndex .status)) ++ es)) :=
      step_poll (s := s.withPorts answers _) hcfg hrst rfl
    rw [Nat.add_right_comm, run_succ hstep, ih, List.replicate_succ', List.append_assoc]
    rfl

/-- A `CMD` write on an idle core is accepted and takes its turn off the list. -/
theorem step_cmd_write (hcfg : s.cfg.wellFormed = true) (hrst : s.rst = false) (hbusy : s.status.busy = false) {v : Word}
    (hin : s.inputs = .write (regIndex .cmd) v :: es) : step s = .next ((s.setInputs es).acceptCmd v) := by
  have hwrite : memWrite (regIndex .cmd) v (s.setInputs es) = (s.setInputs es).acceptCmd v := by
    rw [show regIndex .cmd = 0 from rfl, memWrite_cmd, if_neg (by simp [hbusy])]
  rw [step_of_inputs_cons hcfg hin, takeInput, hwrite, if_neg (by simp [hrst])]

/-- The sequencer's turn on a running core executes the command that `CMD` decodes to. -/
theorem step_sequencer_run {i : Instr} (hcfg : s.cfg.wellFormed = true) (hrst : s.rst = false) (hseq : s.seq = .run)
    (hdecode : decode s.cmd = .ok i) (hin : s.inputs = .sequencer :: es) : step s = exec i (s.setInputs es) := by
  rw [step_of_inputs_cons hcfg hin, takeInput, sequencerTurn_of_not_rst (s := s.setInputs es) hrst,
    runSequencer_of_decode_ok (s := s.setInputs es) hseq hdecode]

/-- The command's step and the poll that sees its end. -/
theorem run_command_and_poll {i : Instr} (hcfg : s.cfg.wellFormed = true) (hrst : s.rst = false) (hseq : s.seq = .run)
    (hdecode : decode s.cmd = .ok i) (hexec : exec i s = .next t) (answers : List Word) :
    Host.Core.run core 2 (s.withPorts answers [.sequencer, .read (regIndex .status)]) =
      .next (t.withPorts (statusWord t.status :: answers) []) := by
  obtain ⟨htcfg, -, -, -, -, htrst, -, -⟩ := exec_frame hexec
  have hcommand : step (s.withPorts answers [.sequencer, .read (regIndex .status)]) =
      .next (t.withPorts answers [.read (regIndex .status)]) :=
    (step_sequencer_run (s := s.withPorts answers _) hcfg hrst hseq hdecode rfl).trans (exec_withPorts hexec _ _)
  have hpoll : step (t.withPorts answers [.read (regIndex .status)]) =
      .next (t.withPorts (statusWord t.status :: answers) []) :=
    step_poll (s := t.withPorts answers _) (htcfg ▸ hcfg) (htrst.trans hrst) rfl
  rw [run_succ hcommand, run_succ hpoll]
  rfl

/-- `WAIT` on a running core (R80) gives what the command gives, with the polled words added to the answers. -/
theorem run_wait {i : Instr} (hcfg : s.cfg.wellFormed = true) (hrst : s.rst = false) (hseq : s.seq = .run)
    (hdecode : decode s.cmd = .ok i) (hexec : exec i s = .next t) (polls : Nat) :
    Host.Core.run core (polls + 2) (s.setInputs (waitInputs polls)) =
      .next (t.withPorts (statusWord t.status :: (List.replicate polls (statusWord s.status) ++ s.rdata)) []) :=
  (run_polls hcfg hrst polls 2 s.rdata).trans (run_command_and_poll hcfg hrst hseq hdecode hexec _)

end Run

/-- Settles O52: the accepted write, and then `WAIT` on the state it leaves. -/
theorem runPseudoInstructionHasTheCommandsEffect : Obligations.RunPseudoInstructionHasTheCommandsEffect := by
  intro s i polls hcfg hrst _ hbusy hwf
  obtain ⟨t, hexec⟩ := exec_answers_next i ((s.setInputs []).acceptCmd (encode i))
  obtain ⟨-, -, -, -, -, -, hrdata, hinputs⟩ := exec_frame hexec
  have hwrite : step (s.setInputs (lineInputs (.run i polls))) =
      .next ((s.setInputs (waitInputs polls)).acceptCmd (encode i)) :=
    step_cmd_write (s := s.setInputs (lineInputs (.run i polls))) hcfg hrst hbusy rfl
  have hports (answers : List Word) : t.withPorts answers [] = { t with rdata := answers } := by
    rw [State.withPorts, ← show t.inputs = [] from hinputs]
  refine ⟨t, hexec, ?_⟩
  rw [hrdata, ← hports]
  exact (run_succ hwrite _).trans
    (run_wait (s := (s.setInputs []).acceptCmd (encode i)) hcfg hrst rfl (decode_encode hwf) hexec polls)

end Sys2Proof.Machine

/-! ### The datapath primitives (spec/40_datapath.md R100, R101) -/

namespace Sys2Proof.Machine

/-- With the amount reduced mod n, a bit's new place wraps round at most once. -/
theorem add_mod_eq_ite_of_lt {n i : Nat} (hi : i < n) (s : Nat) :
    (i + s) % n = if n ≤ i + s % n then i + s % n - n else i + s % n := by
  rw [Nat.add_mod_eq_ite, Nat.mod_eq_of_lt hi]

/-- Rotating left by s moves bit i to bit (i + s) mod n (spec/40_datapath.md R101). -/
theorem rotl_getLsbD_add_mod {n i : Nat} (v : BitVec n) (s : Nat) (hi : i < n) :
    (rotl v s).getLsbD ((i + s) % n) = v.getLsbD i := by
  have hs : s % n < n := Nat.mod_lt s (by omega)
  rw [rotl, BitVec.getLsbD_rotateLeft, Nat.mod_mod, add_mod_eq_ite_of_lt hi]
  split
  case isTrue hwraps =>
    have hlow : i + s % n - n < s % n := by omega
    have hfrom : n - s % n + (i + s % n - n) = i := by omega
    simp [-BitVec.getLsbD_eq_getElem, hlow, hfrom]
  case isFalse hstays =>
    have hhigh : ¬i + s % n < s % n := by omega
    have hbound : i + s % n < n := by omega
    simp [-BitVec.getLsbD_eq_getElem, hhigh, hbound]

theorem rotl_mod {n : Nat} (v : BitVec n) (s : Nat) : rotl v (s % n) = rotl v s := by
  rw [rotl, rotl, Nat.mod_mod]

@[simp] theorem rotl_zero {n : Nat} (v : BitVec n) : rotl v 0 = v := by
  refine BitVec.eq_of_getLsbD_eq fun i hi => ?_
  rw [← rotl_getLsbD_add_mod v 0 hi, Nat.add_zero, Nat.mod_eq_of_lt hi]

@[simp] theorem rotl_width {n : Nat} (v : BitVec n) : rotl v n = v := by
  rw [← rotl_mod, Nat.mod_self, rotl_zero]

/-- Settles O56: `permute_bit` at register bit `length - i`. -/
theorem permuteMovesBits : Obligations.PermuteMovesBits := by
  intro n v pat i h1 hi
  have hplace : pat.length - 1 - (pat.length - i) = i - 1 := by omega
  rw [permute_bit v pat rfl (pat.length - i) (by omega), hplace]

/-- Settles O57: where each bit goes; the identities follow from it. -/
theorem rotateLeftIsCyclic : Obligations.RotateLeftIsCyclic :=
  ⟨fun _ v s _ hi => rotl_getLsbD_add_mod v s hi,
    fun _ v s => ⟨rotl_zero v, rotl_width v, (rotl_mod v s).symm⟩, by decide, by decide⟩

end Sys2Proof.Machine

/-! ### What the checks of the configuration say (spec/40_datapath.md R111) -/

namespace Sys2Proof.Configuration

open List

variable {c : Configuration} {l : List Nat} {n : Nat}

theorem wellFormed_iff (c : Configuration) :
    c.wellFormed = true ↔ c.check1 = true ∧ c.check2 = true ∧ c.check3 = true ∧ c.check4 = true ∧ c.check5 = true ∧
      c.check6 = true ∧ c.check7 = true ∧ c.check8 = true ∧ c.check9 = true ∧ c.check10 = true ∧ c.check11 = true ∧
      c.check12 = true ∧ c.check13 = true := by
  simp only [wellFormed, Bool.and_eq_true]

/-- A list that is no longer than a run of numbers and holds each of them is a rearrangement of the run. -/
theorem range'_perm_of_mem {k : Nat} (hlen : l.length = n) (hmem : ∀ i < n, k + i ∈ l) : range' k n ~ l := by
  have hsubset : range' k n ⊆ l := fun x hx => by
    obtain ⟨hk, hn⟩ := mem_range'_1.mp hx
    simpa [Nat.add_sub_cancel' hk] using hmem (x - k) (by omega)
  exact (subperm_of_subset (nodup_range' 1) hsubset).perm_of_length_le (by simp [hlen])

theorem perm_of_isBijection (h : isBijection n l = true) : range' 1 n ~ l := by
  simp only [isBijection, Bool.and_eq_true, beq_iff_eq, all_eq_true, mem_range, contains_iff_mem] at h
  obtain ⟨hlen, hmem⟩ := h
  exact range'_perm_of_mem hlen fun i hi => Nat.add_comm i 1 ▸ hmem i hi

theorem ip_perm (h : c.wellFormed = true) : range' 1 8 ~ c.ip := by
  obtain ⟨-, -, -, -, h5, -⟩ := (wellFormed_iff c).mp h
  exact perm_of_isBijection h5

theorem nperm_perm (h : c.wellFormed = true) : range' 1 4 ~ c.nperm := by
  obtain ⟨-, -, -, -, -, -, -, -, -, -, h11, -⟩ := (wellFormed_iff c).mp h
  exact perm_of_isBijection h11

theorem sbox_perm (h : c.wellFormed = true) : range' 0 16 ~ c.sbox := by
  obtain ⟨-, -, -, -, -, -, -, -, -, h10, -⟩ := (wellFormed_iff c).mp h
  simp only [check10, Bool.and_eq_true, beq_iff_eq, all_eq_true, mem_range, contains_iff_mem] at h10
  obtain ⟨⟨hlen, -⟩, hmem⟩ := h10
  exact range'_perm_of_mem hlen fun y hy => (Nat.zero_add y).symm ▸ hmem y hy

/-- Check 6: the entry of `FP` at the place `IP[i]` is i. -/
theorem fp_of_wellFormed (h : c.wellFormed = true) :
    c.fp.length = 8 ∧ ∀ i < 8, c.fp.getD (c.ip.getD i 0 - 1) 0 = i + 1 := by
  obtain ⟨-, -, -, -, -, h6, -⟩ := (wellFormed_iff c).mp h
  simpa [check6, undoes, -getD_eq_getElem?_getD] using h6

/-- What holds of the default and of every entry holds of what `getD` reads. -/
theorem getD_induction {α : Type} {P : α → Prop} {d : α} {xs : List α} (hdefault : P d) (hentries : ∀ x ∈ xs, P x)
    (i : Nat) : P (xs.getD i d) := by
  by_cases hi : i < xs.length
  · rw [getD_eq_getElem xs d hi]
    exact hentries _ (getElem_mem hi)
  · rwa [getD_eq_default xs d (by omega)]

theorem getD_lt_of_is4x4 {t : List (List Nat)} (h : is4x4 t = true) (row col : Nat) : (t.getD row []).getD col 0 < 4 := by
  simp only [is4x4, Bool.and_eq_true, all_eq_true, decide_eq_true_eq] at h
  obtain ⟨-, hrows⟩ := h
  have hrow : ∀ x ∈ t.getD row [], x < 4 :=
    getD_induction (P := fun r => ∀ x ∈ r, x < 4) (by simp) (fun r hr x hx => Nat.lt_succ_of_le ((hrows r hr).2 x hx)) row
  exact getD_induction (P := (· < 4)) (by simp) hrow col

theorem s0_s1_getD_lt (h : c.wellFormed = true) (row col : Nat) :
    (c.s0.getD row []).getD col 0 < 4 ∧ (c.s1.getD row []).getD col 0 < 4 := by
  obtain ⟨-, -, -, -, -, -, -, -, h9, -⟩ := (wellFormed_iff c).mp h
  obtain ⟨h0, h1⟩ := (Bool.and_eq_true _ _).mp h9
  exact ⟨getD_lt_of_is4x4 h0 row col, getD_lt_of_is4x4 h1 row col⟩

theorem sbox_getD_lt (h : c.wellFormed = true) (x : Nat) : c.sbox.getD x 0 < 16 := by
  refine getD_induction (P := (· < 16)) (by simp) (fun y hy => ?_) x
  simpa using (sbox_perm h).mem_iff.mpr hy

end Sys2Proof.Configuration

/-! ### Lookups and inverse tables in a well-formed configuration (spec/40_datapath.md R104, R105, R107) -/

namespace Sys2Proof.Machine

open List Sys2Proof.Configuration

variable {c : Configuration} {n : Nat} {pat : List Nat}

theorem toNat_ofNat_of_lt {w x : Nat} (h : x < 2 ^ w) : (BitVec.ofNat w x).toNat = x := by
  rw [BitVec.toNat_ofNat, Nat.mod_eq_of_lt h]

/-- Settles O58: an entry of a well-formed configuration fits the lookup's width. -/
theorem tableLookupsGiveTheEntry : Obligations.TableLookupsGiveTheEntry := by
  intro c a h row col
  obtain ⟨h0, h1⟩ := s0_s1_getD_lt h row col
  exact ⟨toNat_ofNat_of_lt h0, toNat_ofNat_of_lt h1, toNat_ofNat_of_lt (sbox_getD_lt h a.toNat)⟩

/-- In a rearrangement of a run, the place of the entry at i is i. -/
theorem idxOf_getD_of_perm {k i : Nat} (hperm : range' k n ~ pat) (hi : i < n) (d : Nat) :
    pat.idxOf (pat.getD i d) = i := by
  have hlt : i < pat.length := by simpa [← hperm.length_eq] using hi
  rw [getD_eq_getElem pat d hlt, ((hperm.nodup_iff).mp (nodup_range' 1)).idxOf_getElem]

/-- Each number of a run stands in a rearrangement of it, at its place. -/
theorem getD_idxOf_of_perm {k x : Nat} (hperm : range' k n ~ pat) (hk : k ≤ x) (hx : x < k + n) (d : Nat) :
    pat.idxOf x < n ∧ pat.getD (pat.idxOf x) d = x := by
  have hlt : pat.idxOf x < pat.length := idxOf_lt_length_of_mem (hperm.mem_iff.mp (mem_range'_1.mpr ⟨hk, hx⟩))
  rw [getD_eq_getElem pat d hlt, getElem_idxOf]
  exact ⟨by simpa [← hperm.length_eq] using hlt, rfl⟩

/-- The entries of a rearrangement of a run are the run's numbers. -/
theorem getD_bounds_of_perm {k i : Nat} (hperm : range' k n ~ pat) (hi : i < n) (d : Nat) :
    k ≤ pat.getD i d ∧ pat.getD i d < k + n := by
  have hlt : i < pat.length := by simpa [← hperm.length_eq] using hi
  rw [getD_eq_getElem pat d hlt]
  exact mem_range'_1.mp (hperm.mem_iff.mpr (getElem_mem hlt))

theorem inverseSbox_getD {y : Nat} (hy : y < 16) (sbox : List Nat) (d : Nat) :
    (inverseSbox sbox).getD y d = sbox.idxOf y := by
  simp [inverseSbox, hy]

@[simp] theorem inversePositions_length (n : Nat) (pat : List Nat) : (inversePositions n pat).length = n := by
  simp [inversePositions]

theorem inversePositions_getD {p : Nat} (h1 : 1 ≤ p) (hn : p ≤ n) (pat : List Nat) (d : Nat) :
    (inversePositions n pat).getD (p - 1) d = pat.idxOf p + 1 := by
  simp [inversePositions, show p - 1 < n by omega, Nat.sub_add_cancel h1]

/-- `ISBOX[SBOX[x]] = x` (spec/40_datapath.md R107). -/
theorem inverseSbox_getD_sbox (h : c.wellFormed = true) {x : Nat} (hx : x < 16) (d : Nat) :
    (inverseSbox c.sbox).getD (c.sbox.getD x 0) d = x := by
  rw [inverseSbox_getD (sbox_getD_lt h x), idxOf_getD_of_perm (sbox_perm h) hx]

/-- `q[pat[i]] = i` for the computed inverse `q` of a bijection on positions (spec/40_datapath.md R107). -/
theorem inversePositions_getD_self (hperm : range' 1 n ~ pat) {i : Nat} (h1 : 1 ≤ i) (hn : i ≤ n) :
    (inversePositions n pat).getD (pat.getD (i - 1) 0 - 1) 0 = i := by
  have hi : i - 1 < n := by omega
  obtain ⟨hlow, hhigh⟩ := getD_bounds_of_perm hperm hi 0
  rw [inversePositions_getD hlow (by omega), idxOf_getD_of_perm hperm hi, Nat.sub_add_cancel h1]

/-- Check 6 leaves one table for `FP`: each place p is `IP[i]` for some i, and there `FP` and `IP_INV` hold i. -/
theorem fp_eq_inversePositions (h : c.wellFormed = true) : c.fp = inversePositions 8 c.ip := by
  obtain ⟨hlen, hfp⟩ := fp_of_wellFormed h
  refine ext_getElem (by simp [hlen]) fun p hp _ => ?_
  obtain ⟨hplace, hentry⟩ := getD_idxOf_of_perm (x := p + 1) (ip_perm h) (by omega) (by omega) 0
  calc c.fp[p]
    _ = c.fp.getD (c.ip.getD (c.ip.idxOf (p + 1)) 0 - 1) 0 := by
      rw [hentry, Nat.add_sub_cancel, getD_eq_getElem c.fp 0 hp]
    _ = c.ip.idxOf (p + 1) + 1 := hfp _ hplace
    _ = (inversePositions 8 c.ip)[p] := by simp [inversePositions]

/-- Settles O59: each table is a rearrangement of its positions or values, so the place of an entry is where it was
read. -/
theorem inverseTablesUndoTheTables : Obligations.InverseTablesUndoTheTables := fun _ h =>
  ⟨fun _ hx => inverseSbox_getD_sbox h hx 16, fun _ => inversePositions_getD_self (nperm_perm h),
    fun _ => inversePositions_getD_self (ip_perm h), fp_eq_inversePositions h⟩

/-- Settles O55: the checks are evaluated on the literal tables; that `FP` is `IP_INV` follows from them. -/
theorem referenceConfigurationIsWellFormed : Obligations.ReferenceConfigurationIsWellFormed := by
  have hwf : Configuration.reference.wellFormed = true := by decide
  exact ⟨hwf, rfl, rfl, fp_eq_inversePositions hwf⟩

end Sys2Proof.Machine

/-! ### Rotations that add up, and constant bit sequences (spec/40_datapath.md R100, R101) -/

namespace Sys2Proof.Machine

section KeyDatapath

variable {n : Nat}

/-- A value whose bits lie where a rotation puts them is that rotation (spec/40_datapath.md R101). -/
theorem eq_rotl_of_getLsbD {v u : BitVec n} {s : Nat}
    (h : ∀ i < n, u.getLsbD ((i + s) % n) = v.getLsbD i) : u = rotl v s := by
  refine BitVec.eq_of_getLsbD_eq fun j hj => ?_
  have hfrom : ((j + (n - s % n)) % n + s) % n = j := by
    have hs : s % n < n := Nat.mod_lt s (by omega)
    calc ((j + (n - s % n)) % n + s) % n
      _ = (j + (n - s % n) + s % n) % n := by rw [Nat.mod_add_mod, Nat.add_mod_mod]
      _ = (j + n) % n := by rw [Nat.add_assoc, Nat.sub_add_cancel hs.le]
      _ = j := by rw [Nat.add_mod_right, Nat.mod_eq_of_lt hj]
  have hi : (j + (n - s % n)) % n < n := Nat.mod_lt _ (by omega)
  rw [← hfrom, h _ hi, rotl_getLsbD_add_mod v s hi]

theorem rotl_rotl (v : BitVec n) (a b : Nat) : rotl (rotl v a) b = rotl v (a + b) :=
  eq_rotl_of_getLsbD fun i hi => by
    have hmid : (i + a) % n < n := Nat.mod_lt _ (by omega)
    rw [← Nat.add_assoc, ← Nat.mod_add_mod, rotl_getLsbD_add_mod _ b hmid, rotl_getLsbD_add_mod v a hi]

theorem rotl_fill (b : Bool) (s : Nat) : rotl (BitVec.fill n b) s = BitVec.fill n b :=
  (eq_rotl_of_getLsbD fun i hi => by
    rw [BitVec.getLsbD_fill, BitVec.getLsbD_fill, decide_eq_true hi, decide_eq_true (Nat.mod_lt _ (by omega))]).symm

/-- A permutation that reads positions of its input takes a constant value to a constant value. -/
theorem permute_fill {len : Nat} {pat : List Nat} (hlen : pat.length = len) (hpat : ∀ p ∈ pat, 1 ≤ p ∧ p ≤ n)
    (b : Bool) : permute (BitVec.fill n b) len pat = BitVec.fill len b := by
  refine BitVec.eq_of_getLsbD_eq fun j hj => ?_
  have hplace : len - 1 - j < pat.length := by omega
  obtain ⟨h1, hn⟩ := hpat _ (List.getElem_mem hplace)
  rw [permute_bit _ pat hlen j hj, List.getD_eq_getElem pat 0 hplace, BitVec.getLsbD_fill, BitVec.getLsbD_fill,
    decide_eq_true hj, decide_eq_true (by omega)]

end KeyDatapath

theorem zero_append_eq_zext16 (b : Byte) : 0#8 ++ b = zext16 b := by
  simp [zext16, BitVec.setWidth_eq_append]

theorem highByte_append_lowByte (v : Word) : highByte v ++ lowByte v = v := by
  have h : v.extractLsb' 8 8 ++ v.extractLsb' 0 8 = v.extractLsb' 0 16 :=
    BitVec.extractLsb'_append_extractLsb'_eq_extractLsb' rfl
  exact h.trans BitVec.extractLsb'_eq_self

end Sys2Proof.Machine

/-! ### The checks of the key tables (spec/40_datapath.md R111) -/

namespace Sys2Proof.Configuration

variable {c : Configuration}

theorem nrF_le_seven (h : c.wellFormed = true) : c.nrF ≤ 7 := by
  obtain ⟨h1, -⟩ := (wellFormed_iff c).mp h
  obtain ⟨-, hle, -⟩ := of_decide_eq_true h1
  exact hle

theorem p10_positions (h : c.wellFormed = true) : c.p10.length = 10 ∧ ∀ p ∈ c.p10, 1 ≤ p ∧ p ≤ 10 := by
  obtain ⟨-, h2, -⟩ := (wellFormed_iff c).mp h
  have hperm := perm_of_isBijection h2
  refine ⟨by simpa using hperm.length_eq.symm, fun p hp => ?_⟩
  have hrange := List.mem_range'_1.mp (hperm.mem_iff.mpr hp)
  omega

theorem p8_positions (h : c.wellFormed = true) : c.p8.length = 8 ∧ ∀ p ∈ c.p8, 1 ≤ p ∧ p ≤ 10 := by
  obtain ⟨-, -, h3, -⟩ := (wellFormed_iff c).mp h
  simpa [check3, isTable] using h3

theorem shift_length (h : c.wellFormed = true) : c.shift.length = c.nrF := by
  obtain ⟨-, -, -, h4, -⟩ := (wellFormed_iff c).mp h
  exact beq_iff_eq.mp h4

end Sys2Proof.Configuration

/-! ### `DERIVE` (spec/41_keyschedule.md R130)

With a key that fits, `SK` holds the Subkey Set of the variant. -/

namespace Sys2Proof.Machine

theorem exec_derive {s : State} (h : keyFits s) : exec .derive s = .next (deriveEffect s).complete :=
  exec_of_check_none ((check_derive_eq_none_iff s).mpr h)

theorem deriveEffect_complete_frame (s : State) :
    (deriveEffect s).complete = ended { s with
      sk := (deriveEffect s).complete.sk
      status := { s.status with skv := true }
      temps := (deriveEffect s).complete.temps
      draws := (deriveEffect s).complete.draws } := rfl

theorem readReg_sk_deriveEffect_complete (s : State) (r : Fin 8) :
    (deriveEffect s).complete.readReg (.sk r) = slot (subkeySet s.cfg s.var s.key) r.val := rfl

/-! ### The FEISTEL8 schedule (spec/41_keyschedule.md R131 to R133) -/

section FeistelSchedule

open Sys2Proof.Configuration

variable {c : Configuration}

/-- K_r (R132) with the rotations of the rounds added up: the compression P8 of the halves of permute(key, P10), each
rotated by `SHIFT[1]` + ... + `SHIFT[r]`. -/
def feistelSubkey (c : Configuration) (key : Key10) (r : Nat) : Byte :=
  permute (n := 10)
    (rotl (splitHi (h := 5) (permute key 10 c.p10)) (c.shift.take r).sum ++
      rotl (splitLo (h := 5) (permute key 10 c.p10)) (c.shift.take r).sum)
    8 c.p8

/-- The halves carry over from round to round, so the k-th subkey sees the first k + 1 rotations added up (R132). -/
theorem feistelRoundKeys_getD (p8 : List Nat) {shifts : List Nat} {k : Nat} (hk : k < shifts.length) (l r : Half5) :
    (feistelRoundKeys p8 shifts l r).getD k 0 =
      permute (n := 10) (rotl l (shifts.take (k + 1)).sum ++ rotl r (shifts.take (k + 1)).sum) 8 p8 := by
  induction shifts generalizing k l r with
  | nil => simp at hk
  | cons s rest ih =>
    cases k with
    | zero => simp [feistelRoundKeys]
    | succ k =>
      have hrest : k < rest.length := by simpa using hk
      rw [feistelRoundKeys, List.getD_cons_succ, ih hrest, rotl_rotl, rotl_rotl, List.take_succ_cons, List.sum_cons]

theorem slot_subkeySet_feistel (h : c.wellFormed = true) (key : Word) {r : Nat} (h1 : 1 ≤ r) (hr : r ≤ c.nrF) :
    slot (subkeySet c .feistel8 key) r = zext16 (feistelSubkey c (keyLow10 key) r) := by
  have hr8 : r < 8 := Nat.lt_succ_of_le (hr.trans (nrF_le_seven h))
  have hround : r - 1 < c.shift.length := by rw [shift_length h]; omega
  rw [subkeySet, feistelSchedule, slot_skFile _ hr8, if_neg (by omega), feistelSubkeys,
    List.take_of_length_le (shift_length h).le, feistelRoundKeys_getD _ hround, Nat.sub_add_cancel h1]
  rfl

/-- A key of ten equal bits gives subkeys of that bit: every step of the schedule moves bits and no more (R133). -/
theorem feistelSubkey_fill (h : c.wellFormed = true) (b : Bool) (r : Nat) :
    feistelSubkey c (BitVec.fill 10 b) r = BitVec.fill 8 b := by
  obtain ⟨hlen10, hp10⟩ := p10_positions h
  obtain ⟨hlen8, hp8⟩ := p8_positions h
  have hhi : splitHi (h := 5) (BitVec.fill 10 b) = BitVec.fill 5 b := by cases b <;> rfl
  have hlo : splitLo (h := 5) (BitVec.fill 10 b) = BitVec.fill 5 b := by cases b <;> rfl
  have hjoin : BitVec.fill 5 b ++ BitVec.fill 5 b = BitVec.fill 10 b := by cases b <;> rfl
  rw [feistelSubkey, permute_fill hlen10 hp10, hhi, hlo, rotl_fill, hjoin, permute_fill hlen8 hp8]

end FeistelSchedule

/-- Settles O26: the slots in use by `slot_subkeySet_feistel`, the others by `slot_subkeySet_unused`. -/
theorem deriveFeistelRotatesCumulatively : Obligations.DeriveFeistelRotatesCumulatively := by
  intro s hcfg hvar hkey p
  refine ⟨_, exec_derive fun _ => hkey, deriveEffect_complete_frame s, fun r => ?_⟩
  rw [readReg_sk_deriveEffect_complete, hvar]
  split
  case isTrue hused =>
    obtain ⟨h1, hr⟩ := hused
    rw [slot_subkeySet_feistel hcfg s.key h1 hr, zero_append_eq_zext16]
    rfl
  case isFalse hunused => exact slot_subkeySet_unused s.cfg .feistel8 s.key r (decide_eq_false hunused)

/-- Settles O27: both keys are ten equal bits. -/
theorem constantFeistelKeysGiveConstantSubkeys : Obligations.ConstantFeistelKeysGiveConstantSubkeys := by
  intro s t r hcfg hvar hexec h1 hr
  have hslot (hfits : keyFits s) (b : Bool) (hlow : keyLow10 s.key = BitVec.fill 10 b) :
      t.readReg (.sk r) = zext16 (BitVec.fill 8 b) := by
    rw [exec_derive hfits] at hexec
    obtain rfl := Host.Outcome.next.inj hexec
    rw [readReg_sk_deriveEffect_complete, hvar, slot_subkeySet_feistel hcfg s.key h1 hr, hlow,
      feistelSubkey_fill hcfg]
  refine ⟨fun hkey => ?zeros, fun hkey => ?ones⟩
  case zeros => exact hslot (fun _ => by rw [hkey]; rfl) false (by rw [hkey]; rfl)
  case ones => exact hslot (fun _ => by rw [hkey]; rfl) true (by rw [hkey]; rfl)

/-! ### The SPN16 schedule (spec/41_keyschedule.md R134 to R138) -/

/-- Each expanded word is the new word of the two before it; `w2` and `w1` stand before the first (R136). -/
theorem expandWords_getD (c : Configuration) {n k : Nat} (hk : k < n) (i : Nat) (w2 w1 : Byte) :
    (w2 :: w1 :: expandWords c n i w2 w1).getD (k + 2) 0 =
      nextWord c (i + k) ((w2 :: w1 :: expandWords c n i w2 w1).getD k 0)
        ((w2 :: w1 :: expandWords c n i w2 w1).getD (k + 1) 0) := by
  induction n generalizing k i w2 w1 with
  | zero => omega
  | succ n ih =>
    cases k with
    | zero => rfl
    | succ k =>
      have hrest := ih (k := k) (by omega) (i + 1) w1 (nextWord c i w2 w1)
      rwa [Nat.add_right_comm] at hrest

/-- The recurrence of R136 over the words of a key. -/
theorem keyWords_getD (c : Configuration) (key : Word) {i : Nat} (h2 : 2 ≤ i) (hi : i ≤ 2 * c.nrS + 1) :
    (keyWords c key).getD i 0 =
      nextWord c i ((keyWords c key).getD (i - 2) 0) ((keyWords c key).getD (i - 1) 0) := by
  obtain ⟨k, rfl⟩ := Nat.exists_eq_add_of_le' h2
  rw [keyWords, expandWords_getD c (by omega), Nat.add_comm 2 k]
  rfl

theorem slot_subkeySet_spn (c : Configuration) (key : Word) (r : Fin 8) :
    slot (subkeySet c .spn16 key) r.val =
      if r.val ≤ c.nrS then (keyWords c key).getD (2 * r.val) 0 ++ (keyWords c key).getD (2 * r.val + 1) 0
      else 0x0000 :=
  slot_skFile _ r.isLt

/-- Slot 0 is the key: its two words are the key's bytes (R138). -/
theorem slot_subkeySet_spn_zero (c : Configuration) (key : Word) : slot (subkeySet c .spn16 key) 0 = key :=
  calc slot (subkeySet c .spn16 key) (0 : Fin 8).val
    _ = highByte key ++ lowByte key := (slot_subkeySet_spn c key 0).trans (if_pos (Nat.zero_le _))
    _ = key := highByte_append_lowByte key

/-- Settles O28: the words are those of `keyWords`. -/
theorem deriveSpnExpandsWords : Obligations.DeriveSpnExpandsWords := by
  intro s hvar
  have hfits : keyFits s := fun h => by simp [hvar] at h
  refine ⟨_, fun i => (keyWords s.cfg s.key).getD i 0, exec_derive hfits, deriveEffect_complete_frame s, rfl, rfl,
    fun i h2 hi => ?recurrence, fun r => ?slots, ?zero⟩
  case recurrence =>
    refine (keyWords_getD s.cfg s.key h2 hi).trans ?_
    simp only [nextWord, Bool.or_eq_true, beq_iff_eq]
    rfl
  case slots => rw [readReg_sk_deriveEffect_complete, hvar, slot_subkeySet_spn]
  case zero => rw [readReg_sk_deriveEffect_complete, hvar]; exact slot_subkeySet_spn_zero s.cfg s.key

end Sys2Proof.Machine

/-! ### FEISTEL8 blocks: the halves, `SWAP` and a round (spec/42_feistel_round.md R150 to R157) -/

namespace Sys2Proof.Machine

theorem splitHi_lowByte (w : Word) : splitHi (h := 4) (lowByte w) = w.extractLsb' 4 4 := by
  refine BitVec.eq_of_getLsbD_eq fun i hi => ?_
  rw [splitHi_getLsbD, lowByte_getLsbD, BitVec.getLsbD_extractLsb', decide_eq_true (show 4 + i < 8 by omega),
    Bool.true_and]

theorem splitLo_lowByte (w : Word) : splitLo (h := 4) (lowByte w) = w.extractLsb' 0 4 := by
  refine BitVec.eq_of_getLsbD_eq fun i hi => ?_
  rw [splitLo_getLsbD, lowByte_getLsbD, BitVec.getLsbD_extractLsb', decide_eq_true (show i < 8 by omega),
    Bool.true_and, Nat.zero_add]

/-- A block given by its halves, as the 16-bit word that holds it. -/
theorem zext16_append (hi lo : Nibble) : zext16 (hi ++ lo) = 0#8 ++ hi ++ lo :=
  (zero_append_eq_zext16 (hi ++ lo)).symm.trans (BitVec.append_assoc (x₁ := 0#8) (x₂ := hi) (x₃ := lo)).symm

theorem swapHalves_swapHalves (b : Byte) : swapHalves (swapHalves b) = b := by
  have hhi : splitHi (h := 4) (swapHalves b) = splitLo (h := 4) b := splitHi_append _ _
  have hlo : splitLo (h := 4) (swapHalves b) = splitHi (h := 4) b := splitLo_append _ _
  rw [swapHalves, hhi, hlo]
  exact splitHi_append_splitLo (h := 4) b

/-- A round keeps R, so a second one XORs the same F(R, k) into L again (R156). -/
theorem feistelRound_feistelRound (c : Configuration) (b k : Byte) : feistelRound c (feistelRound c b k) k = b := by
  have hhi : splitHi (h := 4) (feistelRound c b k) = splitHi (h := 4) b ^^^ feistelF c (splitLo (h := 4) b) k :=
    splitHi_append _ _
  have hlo : splitLo (h := 4) (feistelRound c b k) = splitLo (h := 4) b := splitLo_append _ _
  rw [feistelRound, hhi, hlo, BitVec.xor_assoc, BitVec.xor_self, BitVec.xor_zero]
  exact splitHi_append_splitLo (h := 4) b

end Sys2Proof.Machine

/-! ### Permutations that undo each other (spec/40_datapath.md R100, R107) -/

namespace Sys2Proof.Machine

section Inverse

open List Sys2Proof.Configuration

variable {n : Nat} {pat : List Nat}

/-- Permuting by `pat` and then by `q` restores a value when the entry of `pat` at the place `q[i]` is i. -/
theorem permute_permute {q : List Nat} (hpat : pat.length = n) (hq : range' 1 n ~ q)
    (hundoes : ∀ i, 1 ≤ i → i ≤ n → pat.getD (q.getD (i - 1) 0 - 1) 0 = i) (v : BitVec n) :
    permute (permute v n pat) n q = v := by
  have hlen : q.length = n := by simpa using hq.length_eq.symm
  refine BitVec.eq_of_getLsbD_eq fun j hj => ?_
  obtain ⟨hlow, hhigh⟩ := getD_bounds_of_perm hq (i := n - 1 - j) (by omega) 0
  have hentry := hundoes (n - j) (by omega) (by omega)
  rw [Nat.sub_right_comm] at hentry
  have hplace : n - 1 - (n - q.getD (n - 1 - j) 0) = q.getD (n - 1 - j) 0 - 1 := by omega
  rw [permute_bit _ q hlen j hj, permute_bit v pat hpat _ (by omega), hplace, hentry, Nat.sub_sub_self hj.le]

/-- The computed inverse of a bijection on positions is one too. -/
theorem inversePositions_perm (hperm : range' 1 n ~ pat) : range' 1 n ~ inversePositions n pat := by
  refine range'_perm_of_mem (inversePositions_length n pat) fun i hi => ?_
  obtain ⟨hlow, hhigh⟩ := getD_bounds_of_perm hperm hi 0
  have hplace : pat.getD i 0 - 1 < (inversePositions n pat).length := by rw [inversePositions_length]; omega
  have hentry := inversePositions_getD_self hperm (i := 1 + i) (by omega) (by omega)
  rw [Nat.add_sub_cancel_left, getD_eq_getElem _ 0 hplace] at hentry
  exact hentry ▸ getElem_mem hplace

theorem permute_inversePositions_permute (hperm : range' 1 n ~ pat) (v : BitVec n) :
    permute (permute v n pat) n (inversePositions n pat) = v :=
  permute_permute (by simpa using hperm.length_eq.symm) (inversePositions_perm hperm)
    (fun i h1 hn => by
      rw [inversePositions_getD h1 hn, Nat.add_sub_cancel]
      exact (getD_idxOf_of_perm hperm h1 (by omega) 0).2) v

theorem permute_permute_inversePositions (hperm : range' 1 n ~ pat) (v : BitVec n) :
    permute (permute v n (inversePositions n pat)) n pat = v :=
  permute_permute (inversePositions_length n pat) hperm (fun _ => inversePositions_getD_self hperm) v

theorem fp_perm {c : Configuration} (h : c.wellFormed = true) : range' 1 8 ~ c.fp :=
  fp_eq_inversePositions h ▸ inversePositions_perm (ip_perm h)

/-- Where a bijection on 1..8 takes the bit at position i of a permuted block from (R100). -/
theorem permute_lowByte_bit (hperm : range' 1 8 ~ pat) (w : Word) {i : Nat} (h1 : 1 ≤ i) (h8 : i ≤ 8) :
    (permute (lowByte w) 8 pat).getLsbD (8 - i) = w.getLsbD (8 - pat.getD (i - 1) 0) := by
  obtain ⟨hlow, -⟩ := getD_bounds_of_perm hperm (i := i - 1) (by omega) 0
  have hplace : 8 - 1 - (8 - i) = i - 1 := by omega
  rw [permute_bit _ pat (by simpa using hperm.length_eq.symm) _ (by omega), hplace, lowByte_getLsbD,
    decide_eq_true (by omega), Bool.true_and]

end Inverse

end Sys2Proof.Machine

/-! ### The commands `IP`, `FP`, `FK` and `SWAP` (spec/42_feistel_round.md R152 to R155)

Each passes its check under FEISTEL8 and ends with `W` written and nothing else changed. -/

namespace Sys2Proof.Machine

section FeistelCommands

variable {s : State}

/-- A command marked FEISTEL8 is neither marked SPN16 nor a reader of `KEY` or `DIN`: its mode, its index and the
subkeys it needs are all R223 checks. -/
theorem check_eq_none_of_feistelOnly {i : Instr} (hi : i.feistelOnly = true) (hvar : s.var = .feistel8)
    (hk : kOutOfRange s.cfg i = false) (hskv : readsSubkeys i = true → s.status.skv = true) : check i s = none := by
  have hother : i.spnOnly = false ∧ readsKey i = false ∧ readsDin i = false := by
    cases i with
    | ip | fp | fk | swap => exact ⟨rfl, rfl, rfl⟩
    | _ => cases hi
  obtain ⟨hspn, hkey, hdin⟩ := hother
  have hnokey : (readsSubkeys i && !s.status.skv) = false := by
    cases hreads : readsSubkeys i
    · rfl
    · simp [hskv hreads]
  simp [check, hvar, hspn, hk, hnokey, hkey, hdin]

theorem exec_ip (hvar : s.var = .feistel8) :
    exec .ip s = .next (ended { s with w := zext16 (permute (lowByte s.w) 8 s.cfg.ip) }) :=
  exec_of_check_none (check_eq_none_of_feistelOnly rfl hvar rfl nofun)

theorem exec_fp (hvar : s.var = .feistel8) :
    exec .fp s = .next (ended { s with w := zext16 (permute (lowByte s.w) 8 s.cfg.fp) }) :=
  exec_of_check_none (check_eq_none_of_feistelOnly rfl hvar rfl nofun)

theorem exec_swap (hvar : s.var = .feistel8) :
    exec .swap s = .next (ended { s with w := zext16 (swapHalves (lowByte s.w)) }) :=
  exec_of_check_none (check_eq_none_of_feistelOnly rfl hvar rfl nofun)

theorem exec_fk {k : Nat} (hvar : s.var = .feistel8) (hskv : s.status.skv = true) (h1 : 1 ≤ k) (hk : k ≤ s.cfg.nrF) :
    exec (.fk k) s =
      .next (ended { s with w := zext16 (feistelRound s.cfg (lowByte s.w) (lowByte (slot s.sk k))) }) :=
  exec_of_check_none (check_eq_none_of_feistelOnly rfl hvar (by simp [kOutOfRange, h1, hk]) fun _ => hskv)

end FeistelCommands

/-- Settles O20: both tables are bijections on 1..8. -/
theorem ipAndFpPermuteTheWorkingBlock : Obligations.IpAndFpPermuteTheWorkingBlock := by
  intro s hcfg hvar
  refine ⟨⟨_, exec_ip hvar, rfl, highByte_zext16 _, fun i h1 h8 => ?ip⟩,
    ⟨_, exec_fp hvar, rfl, highByte_zext16 _, fun i h1 h8 => ?fp⟩⟩
  case ip => exact (zext16_getLsbD _ _).trans (permute_lowByte_bit (Configuration.ip_perm hcfg) s.w h1 h8)
  case fp => exact (zext16_getLsbD _ _).trans (permute_lowByte_bit (fp_perm hcfg) s.w h1 h8)

/-- Settles O22: the halves of the block are slices of `W`, and F is unfolded. -/
theorem fkAppliesOneFeistelRound : Obligations.FkAppliesOneFeistelRound := by
  intro s k hvar hskv h1 hk r x va vb
  rw [exec_fk hvar hskv h1 hk, feistelRound, zext16_append, splitHi_lowByte, splitLo_lowByte]
  rfl

/-- Settles O34: the form is the definition; the rest is `feistelRound_feistelRound`, for blocks and for `W`. -/
theorem feistelRoundIsAnInvolution : Obligations.FeistelRoundIsAnInvolution := by
  refine ⟨fun c b k => ⟨rfl, feistelRound_feistelRound c b k⟩, fun s k hvar hskv h1 hk hw => ?_⟩
  exact ⟨_, _, exec_fk hvar hskv h1 hk, exec_fk hvar hskv h1 hk,
    by simp [feistelRound_feistelRound, zext16_lowByte hw]⟩

/-- Settles O35: `FP` is the inverse table of `IP`, so each of the three pairs of maps restores the block. -/
theorem swapAndPermutationsUndoEachOther : Obligations.SwapAndPermutationsUndoEachOther := by
  intro s hcfg hvar hw
  have hip := Configuration.ip_perm hcfg
  have hfp := fp_eq_inversePositions hcfg
  refine ⟨⟨_, _, exec_swap hvar, exec_swap hvar, ?swap⟩, ⟨_, _, exec_ip hvar, exec_fp hvar, ?fpAfterIp⟩,
    ⟨_, _, exec_fp hvar, exec_ip hvar, ?ipAfterFp⟩⟩
  case swap => simp [swapHalves_swapHalves, zext16_lowByte hw]
  case fpAfterIp => simp [hfp, permute_inversePositions_permute hip, zext16_lowByte hw]
  case ipAfterFp => simp [hfp, permute_permute_inversePositions hip, zext16_lowByte hw]

/-- Settles O21: the halves of the block are slices of `W`. -/
theorem swapExchangesTheHalves : Obligations.SwapExchangesTheHalves := by
  intro s hvar
  rw [exec_swap hvar, swapHalves, zext16_append, splitHi_lowByte, splitLo_lowByte]

end Sys2Proof.Machine

/-! ### SPN16 blocks: substitution and shuffle (spec/43_spn_round.md R171 to R177)

Both layers act nibble by nibble, so two blocks are compared at the nibble positions 1..4 (`word_ext_nib`). -/

namespace Sys2Proof.Machine

section SpnLayers

open List Sys2Proof.Configuration

variable {c : Configuration} {pat : List Nat}

theorem toNat_sub4_sbox (h : c.wellFormed = true) (x : Nibble) : (sub4 c.sbox x).toNat = c.sbox.getD x.toNat 0 :=
  toNat_ofNat_of_lt (sbox_getD_lt h x.toNat)

/-- The nibble `ISBOX` gives for y is one that `SBOX` takes to y (spec/40_datapath.md R107). -/
theorem sbox_getD_sub4_inverseSbox (h : c.wellFormed = true) (y : Nibble) :
    c.sbox.getD (sub4 (inverseSbox c.sbox) y).toNat 0 = y.toNat := by
  obtain ⟨hplace, hentry⟩ := getD_idxOf_of_perm (x := y.toNat) (sbox_perm h) (Nat.zero_le _) (by omega) 0
  rw [sub4, inverseSbox_getD y.isLt, toNat_ofNat_of_lt hplace, hentry]

theorem sub4_sbox_sub4_inverseSbox (h : c.wellFormed = true) (y : Nibble) :
    sub4 c.sbox (sub4 (inverseSbox c.sbox) y) = y :=
  BitVec.eq_of_toNat_eq ((toNat_sub4_sbox h _).trans (sbox_getD_sub4_inverseSbox h y))

theorem sub4_inverseSbox_sub4_sbox (h : c.wellFormed = true) (x : Nibble) :
    sub4 (inverseSbox c.sbox) (sub4 c.sbox x) = x := by
  rw [sub4, toNat_sub4_sbox h, inverseSbox_getD_sbox h x.isLt, BitVec.ofNat_toNat, BitVec.setWidth_eq]

/-- Two tables that undo each other on nibbles do so on blocks. -/
theorem subNibbles_subNibbles {t u : List Nat} (hundoes : ∀ x, sub4 u (sub4 t x) = x) (v : Word) :
    subNibbles u (subNibbles t v) = v :=
  word_ext_nib fun j h1 h4 => by rw [nib_subNibbles _ _ h1 h4, nib_subNibbles _ _ h1 h4, hundoes]

/-- `pat[q[j]] = j` for the computed inverse `q` of a bijection on positions: `inversePositions_getD_self` the other
way round. -/
theorem getD_inversePositions_getD {n : Nat} (hperm : range' 1 n ~ pat) {j : Nat} (h1 : 1 ≤ j) (hn : j ≤ n) :
    pat.getD ((inversePositions n pat).getD (j - 1) 0 - 1) 0 = j := by
  obtain ⟨-, hentry⟩ := getD_idxOf_of_perm hperm h1 (by omega) 0
  rw [inversePositions_getD h1 hn, Nat.add_sub_cancel, hentry]

/-- The entry of a bijection on 1..4 at the place of j is a nibble position. -/
theorem position_bounds (hperm : range' 1 4 ~ pat) {j : Nat} (h1 : 1 ≤ j) (h4 : j ≤ 4) :
    1 ≤ pat.getD (j - 1) 0 ∧ pat.getD (j - 1) 0 ≤ 4 := by
  obtain ⟨hlow, hhigh⟩ := getD_bounds_of_perm hperm (i := j - 1) (by omega) 0
  exact ⟨hlow, by omega⟩

/-- `ISHUF` takes nibble j to nibble `NPERM[j]` (R174). -/
theorem nib_shuffleNibbles_inversePositions (hperm : range' 1 4 ~ pat) (v : Word) {j : Nat} (h1 : 1 ≤ j)
    (h4 : j ≤ 4) : nib (shuffleNibbles (inversePositions 4 pat) v) (pat.getD (j - 1) 0) = nib v j := by
  obtain ⟨hlow, hhigh⟩ := position_bounds hperm h1 h4
  rw [nib_shuffleNibbles _ _ hlow hhigh, inversePositions_getD_self hperm h1 h4]

/-- Shuffling back restores a block: nibble j came from `NPERM[j]`, where `ISHUF` had put nibble j (R177). -/
theorem shuffleNibbles_shuffleNibbles_inversePositions (hperm : range' 1 4 ~ pat) (v : Word) :
    shuffleNibbles pat (shuffleNibbles (inversePositions 4 pat) v) = v :=
  word_ext_nib fun j h1 h4 => by
    rw [nib_shuffleNibbles _ _ h1 h4, nib_shuffleNibbles_inversePositions hperm v h1 h4]

theorem shuffleNibbles_inversePositions_shuffleNibbles (hperm : range' 1 4 ~ pat) (v : Word) :
    shuffleNibbles (inversePositions 4 pat) (shuffleNibbles pat v) = v :=
  word_ext_nib fun j h1 h4 => by
    obtain ⟨hlow, hhigh⟩ := position_bounds (inversePositions_perm hperm) h1 h4
    rw [nib_shuffleNibbles _ _ h1 h4, nib_shuffleNibbles _ _ hlow hhigh, getD_inversePositions_getD hperm h1 h4]

/-- One table for all nibbles commutes with moving them: nibble j of both is the entry for nibble `pat[j]` (R176). -/
theorem shuffleNibbles_subNibbles (hperm : range' 1 4 ~ pat) (table : List Nat) (v : Word) :
    shuffleNibbles pat (subNibbles table v) = subNibbles table (shuffleNibbles pat v) :=
  word_ext_nib fun j h1 h4 => by
    obtain ⟨hlow, hhigh⟩ := position_bounds hperm h1 h4
    rw [nib_shuffleNibbles _ _ h1 h4, nib_subNibbles _ _ hlow hhigh, nib_subNibbles _ _ h1 h4,
      nib_shuffleNibbles _ _ h1 h4]

end SpnLayers

end Sys2Proof.Machine

/-! ### The commands `ARK`, `NSUB`, `INSUB`, `SHUF` and `ISHUF` (spec/43_spn_round.md R170 to R174)

Each passes its check under SPN16 and ends with `W` written and nothing else changed. -/

namespace Sys2Proof.Machine

section SpnCommands

variable {s : State}

/-- Under SPN16 no length is checked, so a command marked SPN16 has only its index and the subkeys it needs to pass. -/
theorem check_eq_none_of_spnOnly {i : Instr} (hi : i.spnOnly = true) (hvar : s.var = .spn16)
    (hk : kOutOfRange s.cfg i = false) (hskv : readsSubkeys i = true → s.status.skv = true) : check i s = none := by
  have hother : i.feistelOnly = false := by
    cases i with
    | ark | nsub | insub | shuf | ishuf => rfl
    | _ => cases hi
  simpa [check, hvar, hother, hk] using hskv

theorem exec_ark {k : Nat} (hvar : s.var = .spn16) (hskv : s.status.skv = true) (hk : k ≤ s.cfg.nrS) :
    exec (.ark k) s = .next (ended { s with w := s.w ^^^ slot s.sk k }) :=
  exec_of_check_none (check_eq_none_of_spnOnly rfl hvar (by simp [kOutOfRange, hk]) fun _ => hskv)

theorem exec_nsub (hvar : s.var = .spn16) :
    exec .nsub s = .next (ended { s with w := subNibbles s.cfg.sbox s.w }) :=
  exec_of_check_none (check_eq_none_of_spnOnly rfl hvar rfl nofun)

theorem exec_insub (hvar : s.var = .spn16) :
    exec .insub s = .next (ended { s with w := subNibbles (inverseSbox s.cfg.sbox) s.w }) :=
  exec_of_check_none (check_eq_none_of_spnOnly rfl hvar rfl nofun)

theorem exec_shuf (hvar : s.var = .spn16) :
    exec .shuf s = .next (ended { s with w := shuffleNibbles s.cfg.nperm s.w }) :=
  exec_of_check_none (check_eq_none_of_spnOnly rfl hvar rfl nofun)

theorem exec_ishuf (hvar : s.var = .spn16) :
    exec .ishuf s = .next (ended { s with w := shuffleNibbles (inversePositions 4 s.cfg.nperm) s.w }) :=
  exec_of_check_none (check_eq_none_of_spnOnly rfl hvar rfl nofun)

end SpnCommands

/-- Settles O24: nibble by nibble, and `ISBOX` answers a nibble that `SBOX` takes back. -/
theorem nibbleSubstitutionsUseTheTable : Obligations.NibbleSubstitutionsUseTheTable := by
  intro s hcfg hvar
  refine ⟨⟨_, exec_nsub hvar, rfl, fun j h1 h4 => ?nsub⟩, ⟨_, exec_insub hvar, rfl, fun j h1 h4 => ?insub⟩⟩
  case nsub =>
    exact (congrArg BitVec.toNat (nib_subNibbles _ s.w h1 h4)).trans (toNat_sub4_sbox hcfg (nib s.w j))
  case insub =>
    exact (congrArg (fun x : Nibble => s.cfg.sbox.getD x.toNat 0) (nib_subNibbles _ s.w h1 h4)).trans
      (sbox_getD_sub4_inverseSbox hcfg (nib s.w j))

/-- Settles O25: `SHUF` by the definition of a shuffle, `ISHUF` because `NPERM_INV` undoes `NPERM`. -/
theorem nibbleShufflesMoveNibbles : Obligations.NibbleShufflesMoveNibbles := fun s hcfg hvar =>
  ⟨⟨_, exec_shuf hvar, rfl, fun _ => nib_shuffleNibbles _ s.w⟩,
    ⟨_, exec_ishuf hvar, rfl, fun _ => nib_shuffleNibbles_inversePositions (Configuration.nperm_perm hcfg) s.w⟩⟩

/-- Settles O36: `NPERM` and `NPERM_INV` are both bijections on the nibble positions. -/
theorem substitutionAndShuffleCommute : Obligations.SubstitutionAndShuffleCommute := by
  intro s hcfg hvar
  have hperm := Configuration.nperm_perm hcfg
  exact ⟨⟨_, _, _, _, exec_nsub hvar, exec_shuf hvar, exec_shuf hvar, exec_nsub hvar,
      shuffleNibbles_subNibbles hperm _ s.w⟩,
    ⟨_, _, _, _, exec_insub hvar, exec_ishuf hvar, exec_ishuf hvar, exec_insub hvar,
      shuffleNibbles_subNibbles (inversePositions_perm hperm) _ s.w⟩⟩

/-- Settles O37: each layer and its inverse restore every nibble. -/
theorem spnLayersUndoEachOther : Obligations.SpnLayersUndoEachOther := by
  intro s hcfg hvar
  have hperm := Configuration.nperm_perm hcfg
  simp only [List.forall_mem_cons, List.not_mem_nil, false_implies, implies_true, and_true]
  refine ⟨⟨_, _, exec_nsub hvar, exec_insub hvar, ?insubAfterNsub⟩,
    ⟨_, _, exec_insub hvar, exec_nsub hvar, ?nsubAfterInsub⟩,
    ⟨_, _, exec_shuf hvar, exec_ishuf hvar, ?ishufAfterShuf⟩,
    ⟨_, _, exec_ishuf hvar, exec_shuf hvar, ?shufAfterIshuf⟩⟩
  case insubAfterNsub => exact subNibbles_subNibbles (sub4_inverseSbox_sub4_sbox hcfg) s.w
  case nsubAfterInsub => exact subNibbles_subNibbles (sub4_sbox_sub4_inverseSbox hcfg) s.w
  case ishufAfterShuf => exact shuffleNibbles_inversePositions_shuffleNibbles hperm s.w
  case shufAfterIshuf => exact shuffleNibbles_shuffleNibbles_inversePositions hperm s.w

/-- Settles O23: a host reads `SK[k]` as `slot` gives it to the command. -/
theorem arkXorsTheSubkey : Obligations.ArkXorsTheSubkey := fun _ _ => exec_ark

end Sys2Proof.Machine

/-! ### The commands of both variants (spec/44_pipeline.md R190 to R193)

`NOP`, `LOADW`, `STOREW`, `ENCRYPT` and `DECRYPT` have no mode mark and no index: the subkeys and the input block are
all that R223 checks of them. -/

namespace Sys2Proof.Machine

section UnmarkedCommands

variable {s : State}

theorem dinFits_of_spn (hvar : s.var = .spn16) : dinFits s := fun h => by simp [hvar] at h

/-- `DERIVE` apart, a command without a mode mark passes its check when the subkeys and the input block it reads are
there. -/
theorem check_eq_none_of_unmarked {i : Instr} (hfeistel : i.feistelOnly = false) (hspn : i.spnOnly = false)
    (hkey : readsKey i = false) (hskv : readsSubkeys i = true → s.status.skv = true)
    (hdin : readsDin i = true → dinFits s) : check i s = none := by
  have hk : kOutOfRange s.cfg i = false := by
    cases i with
    | fk => cases hfeistel
    | ark => cases hspn
    | _ => rfl
  have hnokey : (readsSubkeys i && !s.status.skv) = false := by simpa using hskv
  have hlen : (s.var == .feistel8 && readsDin i && highByte s.din != 0) = false := by
    simpa using fun hvar hreads => hdin hreads hvar
  simp only [check, hfeistel, hspn, hk, hnokey, hkey, hlen, Bool.false_and, Bool.and_false, Bool.false_eq_true,
    if_false]

theorem check_loadw (hdin : dinFits s) : check .loadw s = none :=
  check_eq_none_of_unmarked rfl rfl rfl nofun fun _ => hdin

theorem check_storew (s : State) : check .storew s = none :=
  check_eq_none_of_unmarked rfl rfl rfl nofun nofun

theorem check_encrypt (hskv : s.status.skv = true) (hdin : dinFits s) : check .encrypt s = none :=
  check_eq_none_of_unmarked rfl rfl rfl (fun _ => hskv) fun _ => hdin

theorem check_decrypt (hskv : s.status.skv = true) (hdin : dinFits s) : check .decrypt s = none :=
  check_eq_none_of_unmarked rfl rfl rfl (fun _ => hskv) fun _ => hdin

/-- A block too wide for FEISTEL8 is `LOADW`'s only error (R192). -/
theorem check_loadw_of_wide_block (hvar : s.var = .feistel8) (hwide : highByte s.din ≠ 0) :
    check .loadw s = some .len := by
  simp [check, Instr.feistelOnly, Instr.spnOnly, kOutOfRange, readsSubkeys, readsKey, readsDin, hvar]
  exact hwide

theorem exec_loadw (hdin : dinFits s) : exec .loadw s = .next (ended { s with w := inputBlock s.var s.din }) :=
  exec_of_check_none (check_loadw hdin)

end UnmarkedCommands

/-- Settles O17: `NOP` passes its check in every state. -/
theorem nopOnlyCompletes : Obligations.NopOnlyCompletes := fun _ =>
  exec_of_check_none (check_eq_none_of_unmarked rfl rfl rfl nofun nofun)

/-- Settles O18: what fits the variant is loaded, and a wide block fails the length check. -/
theorem loadwLoadsTheInputBlock : Obligations.LoadwLoadsTheInputBlock := by
  refine fun s => ⟨fun hvar hdin => ?fits, fun hvar => ?spn, fun hvar hwide => ?wide⟩
  case fits =>
    rw [exec_loadw fun _ => hdin, hvar, zero_append_eq_zext16]
    rfl
  case spn =>
    rw [exec_loadw (dinFits_of_spn hvar), hvar]
    rfl
  case wide => exact exec_of_check_some (check_loadw_of_wide_block hvar hwide)

/-- Settles O19: `STOREW` passes its check in every state. -/
theorem storewStoresTheWorkingBlock : Obligations.StorewStoresTheWorkingBlock := fun s =>
  exec_of_check_none (check_storew s)

end Sys2Proof.Machine

/-! ### A running command and its step (spec/44_pipeline.md R190, spec/70_reset_and_hazards.md R266) -/

namespace Sys2Proof.Machine

section RunningCommand

variable {s : State}

/-- With the sequencer to move, a step is its turn on the state without that turn. -/
theorem step_of_sequencerMoves (hcfg : s.cfg.wellFormed = true) {es : List Input}
    (h : s.inputs = .sequencer :: es ∨ (s.inputs = [] ∧ es = [])) : step s = sequencerTurn (s.setInputs es) := by
  obtain h | ⟨h, rfl⟩ := h
  · exact step_of_inputs_cons hcfg h
  · rw [step_of_wellFormed hcfg, nextTurn, h, show s.setInputs [] = s by rw [State.setInputs, ← h]]

/-- With the sequencer to move and the reset line low, a step is the sequencer's. -/
theorem step_eq_runSequencer (hcfg : s.cfg.wellFormed = true) (hrst : s.rst = false) {es : List Input}
    (h : s.inputs = .sequencer :: es ∨ (s.inputs = [] ∧ es = [])) : step s = runSequencer (s.setInputs es) :=
  (step_of_sequencerMoves hcfg h).trans (sequencerTurn_of_not_rst (s := s.setInputs es) hrst)

/-- After its turn the sequencer is idle, whatever it did. -/
theorem sequencerTurn_seq {t : State} (h : sequencerTurn s = .next t) : t.seq = .idle := by
  obtain ⟨-, rfl⟩ | ⟨-, hidle, rfl⟩ | ⟨-, -, ⟨e, -, rfl⟩ | ⟨i, -, hexec⟩⟩ := sequencerTurn_next h
  · rfl
  · exact hidle
  · rfl
  · obtain ⟨-, -, hseq, -⟩ := exec_completes hexec
    exact hseq

/-- A host write never stops the sequencer. -/
theorem memWrite_seq_of_run (hseq : s.seq = .run) (i : RegIndex) (v : Word) : (memWrite i v s).seq = .run := by
  obtain h | h | ⟨-, h⟩ | ⟨-, h | h | h | h⟩ := memWrite_cases i v s <;> simp [h, hseq]

@[simp] theorem memWrite_inputs (i : RegIndex) (v : Word) (s : State) : (memWrite i v s).inputs = s.inputs := by
  obtain h | h | ⟨-, h⟩ | ⟨-, h | h | h | h⟩ := memWrite_cases i v s <;> simp [h]

/-- A turn while a command runs ends the command, or leaves it running. -/
theorem takeInput_of_run (hseq : s.seq = .run) (e : Input) :
    ∃ t, takeInput e s = .next t ∧
      (t.seq = .idle ∨ (t.seq = .run ∧ t.cfg = s.cfg ∧ t.inputs = s.inputs)) := by
  cases e with
  | read i =>
    refine ⟨_, rfl, .inr ?_⟩
    cases s.rst <;> exact ⟨hseq, rfl, rfl⟩
  | write i v =>
    refine ⟨_, rfl, .inr ?_⟩
    cases s.rst
    · exact ⟨memWrite_seq_of_run hseq i v, memWrite_cfg i v s, memWrite_inputs i v s⟩
    · exact ⟨hseq, rfl, rfl⟩
  | rst level =>
    refine ⟨_, rfl, ?_⟩
    cases level
    · exact .inr ⟨hseq, rfl, rfl⟩
    · exact .inl rfl
  | sequencer =>
    obtain ⟨t, ht⟩ := sequencerTurn_answers_next s
    exact ⟨t, ht, .inl (sequencerTurn_seq ht)⟩

theorem run_one {t : State} (h : step s = .next t) : Host.Core.run core 1 s = .next t := run_succ h 0

/-- A running command ends within one turn more than the inputs that wait (R266): every turn takes an input, and with
none left the turn is the sequencer's. -/
theorem exists_run_idle (hcfg : s.cfg.wellFormed = true) (hseq : s.seq = .run) :
    ∃ n t, 1 ≤ n ∧ n ≤ s.inputs.length + 1 ∧ Host.Core.run core n s = .next t ∧ t.seq = .idle := by
  generalize hin : s.inputs = es
  induction es generalizing s with
  | nil =>
    obtain ⟨t, ht⟩ := sequencerTurn_answers_next (s.setInputs [])
    exact ⟨1, t, le_rfl, by simp, run_one ((step_of_sequencerMoves hcfg (.inr ⟨hin, rfl⟩)).trans ht),
      sequencerTurn_seq ht⟩
  | cons e es ih =>
    obtain ⟨t, ht, hidle | ⟨hrun, htcfg, htin⟩⟩ := takeInput_of_run (s := s.setInputs es) hseq e
    all_goals have hstep : step s = .next t := (step_of_inputs_cons hcfg hin).trans ht
    · exact ⟨1, t, le_rfl, by simp, run_one hstep, hidle⟩
    · have htwf : t.cfg.wellFormed = true := by rw [htcfg]; exact hcfg
      obtain ⟨n, u, -, hn, hu, huseq⟩ := ih htwf hrun htin
      exact ⟨n + 1, u, by omega, by simpa using hn, (run_succ hstep n).trans hu, huseq⟩

/-- What the host's accesses can change while a command runs: `OVR`, the answers, the draws, and the inputs left. -/
def State.withAccesses (ovr : Bool) (es : List Input) (answers : List Word) (draws : Nat) (s : State) : State :=
  { s with status := { s.status with ovr := ovr }, inputs := es, rdata := answers, draws := draws }

/-- A turn of the host or of the reset line staying low changes nothing else while a command runs (spec/20_memory.md
R56). -/
theorem takeInput_of_busy (hbusy : s.status.busy = true) (hrst : s.rst = false) {e : Input} (hreset : e ≠ .rst true)
    (hsequencer : e ≠ .sequencer) :
    ∃ ovr answers draws, takeInput e s = .next (s.withAccesses ovr s.inputs answers draws) := by
  cases e with
  | read i =>
    exact ⟨s.status.ovr, (memRead i s).rdata, (memRead i s).draws, congrArg _ (if_neg (by simp [hrst]))⟩
  | write i v =>
    obtain ⟨ovr, h⟩ := memWrite_busy hbusy i v
    refine ⟨ovr, s.rdata, s.draws, ?_⟩
    rw [takeInput, if_neg (by simp [hrst]), h]
    rfl
  | rst level =>
    cases level with
    | true => contradiction
    | false =>
      refine ⟨s.status.ovr, s.rdata, s.draws, ?_⟩
      rw [takeInput, driveRst, if_neg (by simp), ← hrst]
      rfl
  | sequencer => contradiction

/-- With no reset on the way, a running command comes to the sequencer's turn as it was accepted. -/
theorem exists_run_sequencerMoves (hcfg : s.cfg.wellFormed = true) (hbusy : s.status.busy = true)
    (hrst : s.rst = false) (hno : Input.rst true ∉ s.inputs) :
    ∃ n ovr es answers draws, n ≤ s.inputs.length ∧
      Host.Core.run core n s = .next (s.withAccesses ovr es answers draws) ∧
      (s.withAccesses ovr es answers draws).SequencerMoves := by
  generalize hin : s.inputs = es at hno ⊢
  induction es generalizing s with
  | nil => exact ⟨0, s.status.ovr, [], s.rdata, s.draws, le_rfl, by rw [← hin]; rfl, .inl rfl⟩
  | cons e es ih =>
    obtain ⟨hreset, hno⟩ := not_or.mp (List.mem_cons.not.mp hno)
    by_cases hsequencer : e = .sequencer
    · subst hsequencer
      exact ⟨0, s.status.ovr, _, s.rdata, s.draws, Nat.zero_le _, by rw [← hin]; rfl, .inr ⟨es, rfl⟩⟩
    · obtain ⟨ovr, answers, draws, h⟩ :=
        takeInput_of_busy (s := s.setInputs es) hbusy hrst (Ne.symm hreset) hsequencer
      obtain ⟨n, ovr', es', answers', draws', hn, hrun, hmoves⟩ :=
        ih (s := s.withAccesses ovr es answers draws) hcfg hbusy hrst rfl hno
      exact ⟨n + 1, ovr', es', answers', draws', by simpa using hn,
        (run_succ ((step_of_inputs_cons hcfg hin).trans h) n).trans hrun, hmoves⟩

end RunningCommand

/-- Settles O7: with the reset line low, a step with the sequencer to move is the sequencer's. -/
theorem stepRunsTheDecodedCommand : Obligations.StepRunsTheDecodedCommand := by
  intro s hcfg hseq hrst
  refine ⟨fun i hi => ⟨fun hin => ?_, fun es hin => ?_⟩, fun e he => ⟨fun hin => ?_, fun es hin => ?_⟩⟩
  · exact (step_of_inputs_nil hcfg hin hrst).trans (runSequencer_of_decode_ok hseq hi)
  · exact step_sequencer_run hcfg hrst hseq hi hin
  · exact (step_of_inputs_nil hcfg hin hrst).trans (runSequencer_of_decode_error hseq he)
  · exact (step_eq_runSequencer hcfg hrst (.inl hin)).trans
      (runSequencer_of_decode_error (s := s.setInputs es) hseq he)

/-- Settles O12: the turns before the sequencer's leave the command as it is, and the sequencer's ends it. -/
theorem runningCommandEndsEventually : Obligations.RunningCommandEndsEventually := by
  intro s hcfg hseq
  refine ⟨exists_run_idle hcfg hseq, fun hbusy hrst hno => ?_⟩
  obtain ⟨n, ovr, es, answers, draws, hn, hrun, hmoves⟩ := exists_run_sequencerMoves hcfg hbusy hrst hno
  have hturn : ∃ rest, es = .sequencer :: rest ∨ (es = [] ∧ rest = []) :=
    hmoves.elim (fun h => ⟨[], .inr ⟨h, rfl⟩⟩) fun ⟨rest, h⟩ => ⟨rest, .inl h⟩
  obtain ⟨rest, hturn⟩ := hturn
  obtain ⟨t, ht⟩ := sequencerTurn_answers_next ((s.withAccesses ovr es answers draws).setInputs rest)
  have hstep := step_of_sequencerMoves (s := s.withAccesses ovr es answers draws) hcfg hturn
  refine ⟨n, _, rest, t, hn, hrun, rfl, hturn, hstep.trans ht, ?_, sequencerTurn_seq ht⟩
  exact (sequencerTurn_of_not_rst (s := (s.withAccesses ovr es answers draws).setInputs rest) hrst).symm.trans ht

end Sys2Proof.Machine

/-! ### The stages of a composite command (spec/44_pipeline.md R194 to R198)

Between `LOADW` and `STOREW` a composite command only rewrites `W`, one group of stages per subkey: its result is a fold
over the list of subkey indices. -/

namespace Sys2Proof.Configuration

variable {c : Configuration}

theorem one_le_nrF (h : c.wellFormed = true) : 1 ≤ c.nrF := by
  obtain ⟨h1, -⟩ := (wellFormed_iff c).mp h
  obtain ⟨hle, -⟩ := of_decide_eq_true h1
  exact hle

theorem nrS_le_seven (h : c.wellFormed = true) : c.nrS ≤ 7 := by
  obtain ⟨h1, -⟩ := (wellFormed_iff c).mp h
  obtain ⟨-, -, -, hle⟩ := of_decide_eq_true h1
  exact hle

end Sys2Proof.Configuration

namespace Sys2Proof.Machine

theorem runStages_cons (i : Instr) (rest : List Instr) (s : State) :
    runStages (i :: rest) s = runStages rest (stageEffect i s) := rfl

/-- One group of stages for each index k, each taking the block b in `W` to the block f(b, k), whatever form `g` blocks
take in `W`. -/
theorem runStages_flatMap {α : Type} {g : α → Word} {f : α → Nat → α} {group : Nat → List Instr} {s : State}
    (hgroup : ∀ b k, runStages (group k) (s.setW (g b)) = s.setW (g (f b k))) (ks : List Nat) (b : α) :
    runStages (ks.flatMap group) (s.setW (g b)) = s.setW (g (ks.foldl f b)) := by
  induction ks generalizing b with
  | nil => rfl
  | cons k rest ih => rw [List.flatMap_cons, runStages_append, hgroup, ih, List.foldl_cons]

/-! #### Lists of subkey indices -/

/-- The subkey indices n, n - 1, ..., r, in the order in which `DECRYPT` uses them. -/
def downTo (n r : Nat) : List Nat := (List.range' r (n + 1 - r)).reverse

theorem downTo_one (n : Nat) : downTo n 1 = (List.range' 1 n).reverse := rfl

theorem mem_downTo {n r k : Nat} : k ∈ downTo n r ↔ r ≤ k ∧ k ≤ n := by
  rw [downTo, List.mem_reverse, List.mem_range'_1]
  omega

theorem downTo_succ_self (n : Nat) : downTo n (n + 1) = [] := by simp [downTo]

theorem downTo_self (n : Nat) : downTo n n = [n] := by simp [downTo]

theorem downTo_eq_concat {n r : Nat} (hr : r ≤ n) : downTo n r = downTo n (r + 1) ++ [r] := by
  rw [downTo, Nat.succ_sub hr, List.range'_succ, List.reverse_cons, downTo, Nat.add_sub_add_right]

/-! #### FEISTEL8 -/

/-- The block after the rounds with the subkeys `key k` for k in `ks`, a swap between every two of them. (A swap before
the first round undoes the one the fold starts with.) -/
def feistelRounds (c : Configuration) (key : Nat → Byte) (b : Byte) (ks : List Nat) : Byte :=
  ks.foldl (fun x k => feistelRound c (swapHalves x) (key k)) (swapHalves b)

section FeistelRounds

variable (c : Configuration) (key : Nat → Byte) (b : Byte) (k : Nat)

theorem feistelRounds_singleton : feistelRounds c key b [k] = feistelRound c b (key k) := by
  simp [feistelRounds, swapHalves_swapHalves]

/-- A round more: the swap between two rounds, and the round. -/
theorem feistelRounds_concat (ks : List Nat) :
    feistelRounds c key b (ks ++ [k]) = feistelRound c (swapHalves (feistelRounds c key b ks)) (key k) := by
  simp [feistelRounds]

end FeistelRounds

/-- The subkey the round of `FK k` uses. -/
def feistelKey (sk : Vector Word 8) (k : Nat) : Byte := lowByte (slot sk k)

/-- Initial permutation, the rounds with the subkeys `ks` in this order, final permutation (R195, R196). -/
def feistelCipher (c : Configuration) (sk : Vector Word 8) (ks : List Nat) (b : Byte) : Byte :=
  permute (feistelRounds c (feistelKey sk) (permute b 8 c.ip) ks) 8 c.fp

/-- The stages of a FEISTEL8 composite with the subkeys `ks` and then `last`. -/
def feistelStages (ks : List Nat) (last : Nat) : List Instr :=
  [.loadw, .ip] ++ (ks.flatMap (fun k => [.fk k, .swap]) ++ [.fk last]) ++ [.fp, .storew]

theorem feistelEncryptStages_succ (n : Nat) :
    feistelEncryptStages (n + 1) = feistelStages (List.range' 1 n) (n + 1) := by
  have hswaps : (List.range' 1 n).flatMap (fun r => if r < n + 1 then [Instr.fk r, .swap] else [.fk r]) =
      (List.range' 1 n).flatMap fun r => [.fk r, .swap] :=
    List.flatMap_congr fun r hr => if_pos (by rw [List.mem_range'_1] at hr; omega)
  rw [feistelEncryptStages, feistelStages, List.range'_1_concat, List.flatMap_append, hswaps]
  simp [Nat.add_comm 1 n]

theorem feistelDecryptStages_eq {n : Nat} (hn : 1 ≤ n) : feistelDecryptStages n = feistelStages (downTo n 2) 1 := by
  have hswaps : (downTo n 2).flatMap (fun r => if 1 < r then [Instr.fk r, .swap] else [.fk r]) =
      (downTo n 2).flatMap fun r => [.fk r, .swap] :=
    List.flatMap_congr fun r hr => if_pos (mem_downTo.mp hr).left
  rw [feistelDecryptStages, feistelStages, ← downTo_one, downTo_eq_concat hn, List.flatMap_append, hswaps]
  rfl

section FeistelStages

variable (s : State) (b : Byte)

theorem stageEffect_ip_zext16 :
    stageEffect .ip (s.setW (zext16 b)) = s.setW (zext16 (permute b 8 s.cfg.ip)) :=
  congrArg (fun x => s.setW (zext16 (permute x 8 s.cfg.ip))) (lowByte_zext16 b)

theorem stageEffect_fp_zext16 :
    stageEffect .fp (s.setW (zext16 b)) = s.setW (zext16 (permute b 8 s.cfg.fp)) :=
  congrArg (fun x => s.setW (zext16 (permute x 8 s.cfg.fp))) (lowByte_zext16 b)

theorem stageEffect_fk_zext16 (k : Nat) :
    stageEffect (.fk k) (s.setW (zext16 b)) = s.setW (zext16 (feistelRound s.cfg b (feistelKey s.sk k))) :=
  congrArg (fun x => s.setW (zext16 (feistelRound s.cfg x (feistelKey s.sk k)))) (lowByte_zext16 b)

theorem stageEffect_swap_zext16 : stageEffect .swap (s.setW (zext16 b)) = s.setW (zext16 (swapHalves b)) :=
  congrArg (fun x => s.setW (zext16 (swapHalves x))) (lowByte_zext16 b)

end FeistelStages

/-- The stages leave the cipher's block in `W` and `DOUT`. -/
theorem runStages_feistelStages {s : State} (hvar : s.var = .feistel8) (ks : List Nat) (last : Nat) :
    runStages (feistelStages ks last) s =
      (s.setW (zext16 (feistelCipher s.cfg s.sk (ks ++ [last]) (lowByte s.din)))).setDout
        (zext16 (feistelCipher s.cfg s.sk (ks ++ [last]) (lowByte s.din))) := by
  have hload : stageEffect .loadw s = s.setW (zext16 (lowByte s.din)) :=
    congrArg (fun var => s.setW (inputBlock var s.din)) hvar
  have hinit : runStages [.loadw, .ip] s =
      s.setW (zext16 (swapHalves (swapHalves (permute (lowByte s.din) 8 s.cfg.ip)))) := by
    rw [runStages_cons, hload, swapHalves_swapHalves]
    exact stageEffect_ip_zext16 s _
  have hround (x : Byte) (k : Nat) :
      runStages [.fk k, .swap] (s.setW (zext16 (swapHalves x))) =
        s.setW (zext16 (swapHalves (feistelRound s.cfg (swapHalves x) (feistelKey s.sk k)))) := by
    rw [runStages_cons, stageEffect_fk_zext16]
    exact stageEffect_swap_zext16 s _
  have hlast (x : Byte) : runStages [.fk last] (s.setW (zext16 x)) =
      s.setW (zext16 (feistelRound s.cfg x (feistelKey s.sk last))) := stageEffect_fk_zext16 s x last
  rw [feistelStages, runStages_append, runStages_append, runStages_append, hinit, runStages_flatMap hround, hlast,
    feistelCipher, feistelRounds_concat]
  exact congrArg (stageEffect .storew) (stageEffect_fp_zext16 s _)

/-! #### SPN16 -/

/-- Substitution and shuffle, the unkeyed layers of a round (R197). -/
def spnLayer (c : Configuration) (b : Word) : Word := shuffleNibbles c.nperm (subNibbles c.sbox b)

/-- The inverse layers of a round (R198). -/
def spnInverseLayer (c : Configuration) (b : Word) : Word :=
  shuffleNibbles (inversePositions 4 c.nperm) (subNibbles (inverseSbox c.sbox) b)

/-- The block after a key addition and the layers for each subkey index in `ks`. -/
def spnRounds (layer : Word → Word) (sk : Vector Word 8) (b : Word) (ks : List Nat) : Word :=
  ks.foldl (fun x k => layer (x ^^^ slot sk k)) b

/-- A round more. -/
theorem spnRounds_concat (layer : Word → Word) (sk : Vector Word 8) (b : Word) (ks : List Nat) (k : Nat) :
    spnRounds layer sk b (ks ++ [k]) = layer (spnRounds layer sk b ks ^^^ slot sk k) := by
  simp [spnRounds]

/-- The stages of an SPN16 composite: a round for each subkey index in `ks`, and the key addition with `last`. -/
def spnStages (sub shuffle : Instr) (ks : List Nat) (last : Nat) : List Instr :=
  [.loadw] ++ ks.flatMap (fun k => [.ark k, sub, shuffle]) ++ [.ark last, .storew]

theorem spnEncryptStages_eq (n : Nat) : spnEncryptStages n = spnStages .nsub .shuf (List.range n) n := rfl

theorem spnDecryptStages_eq (n : Nat) : spnDecryptStages n = spnStages .insub .ishuf (downTo n 1) 0 := rfl

theorem runStages_spnStages {s : State} (hvar : s.var = .spn16) {sub shuffle : Instr} {layer : Word → Word}
    (hlayer : ∀ b, runStages [sub, shuffle] (s.setW b) = s.setW (layer b)) (ks : List Nat) (last : Nat) :
    runStages (spnStages sub shuffle ks last) s =
      (s.setW (spnRounds layer s.sk s.din ks ^^^ slot s.sk last)).setDout
        (spnRounds layer s.sk s.din ks ^^^ slot s.sk last) := by
  have hload : runStages [.loadw] s = s.setW (id s.din) := by
    simp [runStages, stageEffect, loadwEffect, inputBlock, hvar]
  have hround (x : Word) (k : Nat) :
      runStages [.ark k, sub, shuffle] (s.setW (id x)) = s.setW (id (layer (x ^^^ slot s.sk k))) :=
    hlayer (x ^^^ slot s.sk k)
  rw [spnStages, runStages_append, runStages_append, hload, runStages_flatMap hround]
  rfl

/-! #### The result of a composite command -/

/-- The block `ENCRYPT` leaves (R195, R197). -/
def encryptBlock (c : Configuration) (var : Variant) (sk : Vector Word 8) (din : Word) : Word :=
  match var with
  | .feistel8 => zext16 (feistelCipher c sk (List.range' 1 c.nrF) (lowByte din))
  | .spn16 => spnRounds (spnLayer c) sk din (List.range c.nrS) ^^^ slot sk c.nrS

/-- The block `DECRYPT` leaves (R196, R198). -/
def decryptBlock (c : Configuration) (var : Variant) (sk : Vector Word 8) (din : Word) : Word :=
  match var with
  | .feistel8 => zext16 (feistelCipher c sk (downTo c.nrF 1) (lowByte din))
  | .spn16 => spnRounds (spnInverseLayer c) sk din (downTo c.nrS 1) ^^^ slot sk 0

section Composite

variable {s : State}

theorem runStages_encryptStages (hcfg : s.cfg.wellFormed = true) :
    runStages (encryptStages s.cfg s.var) s =
      (s.setW (encryptBlock s.cfg s.var s.sk s.din)).setDout (encryptBlock s.cfg s.var s.sk s.din) := by
  cases hvar : s.var with
  | feistel8 =>
    obtain ⟨n, hn⟩ := Nat.exists_eq_add_of_le' (Configuration.one_le_nrF hcfg)
    rw [encryptStages, encryptBlock, hn, feistelEncryptStages_succ, runStages_feistelStages hvar,
      List.range'_1_concat, Nat.add_comm 1 n]
  | spn16 =>
    rw [encryptStages, spnEncryptStages_eq]
    exact runStages_spnStages hvar (fun _ => rfl) _ _

theorem runStages_decryptStages (hcfg : s.cfg.wellFormed = true) :
    runStages (decryptStages s.cfg s.var) s =
      (s.setW (decryptBlock s.cfg s.var s.sk s.din)).setDout (decryptBlock s.cfg s.var s.sk s.din) := by
  cases hvar : s.var with
  | feistel8 =>
    have hn := Configuration.one_le_nrF hcfg
    rw [decryptStages, decryptBlock, feistelDecryptStages_eq hn, runStages_feistelStages hvar, downTo_eq_concat hn]
  | spn16 =>
    rw [decryptStages, spnDecryptStages_eq]
    exact runStages_spnStages hvar (fun _ => rfl) _ _

/-- The end of a composite command with the result `v`. -/
def State.endComposite (v : Word) (s : State) : State := ((s.setW v).setDout v).dropTemps.complete

theorem State.endComposite_frame (v : Word) (s : State) :
    s.endComposite v = ended { s with
      w := (s.endComposite v).w
      dout := (s.endComposite v).dout
      temps := (s.endComposite v).temps
      draws := (s.endComposite v).draws } := rfl

theorem exec_encrypt (hcfg : s.cfg.wellFormed = true) (hskv : s.status.skv = true) (hdin : dinFits s) :
    exec .encrypt s = .next (s.endComposite (encryptBlock s.cfg s.var s.sk s.din)) := by
  rw [exec_of_check_none (check_encrypt hskv hdin), effectOf, encryptEffect, runStages_encryptStages hcfg]
  rfl

theorem exec_decrypt (hcfg : s.cfg.wellFormed = true) (hskv : s.status.skv = true) (hdin : dinFits s) :
    exec .decrypt s = .next (s.endComposite (decryptBlock s.cfg s.var s.sk s.din)) := by
  rw [exec_of_check_none (check_decrypt hskv hdin), effectOf, decryptEffect, runStages_decryptStages hcfg]
  rfl

theorem subkey_eq_slot (s : State) {r : Nat} (hr : r < 8) : subkey s r = slot s.sk r :=
  congrArg (slot s.sk) (Nat.mod_eq_of_lt hr)

theorem subkeyByte_eq_feistelKey (s : State) {r : Nat} (hr : r < 8) : subkeyByte s r = feistelKey s.sk r :=
  congrArg lowByte (subkey_eq_slot s hr)

end Composite

/-- Settles O29: x(r) is the block after the rounds with the subkeys 1..r, or `NR_F`..r. -/
theorem feistelPipelineIsTheNestedFormula : Obligations.FeistelPipelineIsTheNestedFormula := by
  intro s hcfg hvar hskv hdin
  have hn := Configuration.nrF_le_seven hcfg
  have hfits : dinFits s := fun _ => hdin
  refine ⟨⟨_, fun r => feistelRounds s.cfg (feistelKey s.sk) (permute (lowByte s.din) 8 s.cfg.ip) (List.range' 1 r),
      exec_encrypt hcfg hskv hfits, ?first, fun r h1 hr => ?next, ?encrypted, rfl, State.endComposite_frame _ s⟩,
    ⟨_, fun r => feistelRounds s.cfg (feistelKey s.sk) (permute (lowByte s.din) 8 s.cfg.ip) (downTo s.cfg.nrF r),
      exec_decrypt hcfg hskv hfits, ?last, fun r h1 hr => ?previous, ?decrypted, rfl, State.endComposite_frame _ s⟩⟩
  all_goals beta_reduce
  case first =>
    rw [subkeyByte_eq_feistelKey s (by omega)]
    exact feistelRounds_singleton ..
  case next =>
    rw [subkeyByte_eq_feistelKey s (by omega), List.range'_1_concat, Nat.add_comm 1 r, feistelRounds_concat]
  case last =>
    rw [subkeyByte_eq_feistelKey s (by omega), downTo_self]
    exact feistelRounds_singleton ..
  case previous =>
    rw [subkeyByte_eq_feistelKey s (by omega), downTo_eq_concat hr.le, feistelRounds_concat]
  case encrypted | decrypted =>
    rw [hvar, zero_append_eq_zext16]
    rfl

/-- Settles O30: x(r) is the block after the rounds with the subkeys 0..r - 1, or `NR_S`..r + 1. -/
theorem spnPipelineIsTheLayeredRounds : Obligations.SpnPipelineIsTheLayeredRounds := by
  intro s hcfg hvar hskv
  have hn := Configuration.nrS_le_seven hcfg
  have hfits := dinFits_of_spn hvar
  refine ⟨⟨_, fun r => spnRounds (spnLayer s.cfg) s.sk s.din (List.range r), exec_encrypt hcfg hskv hfits, rfl,
      fun r hr => ?next, ?encrypted, rfl, State.endComposite_frame _ s⟩,
    ⟨_, fun r => spnRounds (spnInverseLayer s.cfg) s.sk s.din (downTo s.cfg.nrS (r + 1)),
      exec_decrypt hcfg hskv hfits, ?last, fun r h1 hr => ?previous, ?decrypted, rfl, State.endComposite_frame _ s⟩⟩
  all_goals beta_reduce
  case next =>
    rw [subkey_eq_slot s (by omega), List.range_succ, spnRounds_concat]
    rfl
  case last =>
    rw [downTo_succ_self]
    rfl
  case previous =>
    rw [subkey_eq_slot s (by omega), Nat.sub_add_cancel h1, downTo_eq_concat hr, spnRounds_concat]
    rfl
  case encrypted | decrypted =>
    rw [subkey_eq_slot s (by omega), hvar]
    rfl

end Sys2Proof.Machine

/-! ### `DECRYPT` and `ENCRYPT` undo each other (spec/44_pipeline.md R199, R200) -/

namespace Sys2Proof.Machine

/-! #### FEISTEL8: the same cipher with the subkeys in reverse order -/

/-- Steps f that undo themselves between two maps σ undo a whole list of them in reverse order. -/
theorem foldl_reverse_foldl {α : Type} {f : α → Nat → α} {σ : α → α} (hundoes : ∀ x k, f (σ (f x k)) k = σ x)
    (ks : List Nat) (x : α) : ks.reverse.foldl f (σ (ks.foldl f x)) = σ x := by
  induction ks generalizing x with
  | nil => rfl
  | cons k rest ih =>
    rw [List.reverse_cons, List.foldl_append, List.foldl_cons (l := rest), ih]
    exact hundoes x k

theorem feistelRounds_reverse (c : Configuration) (key : Nat → Byte) (b : Byte) (ks : List Nat) :
    feistelRounds c key (feistelRounds c key b ks) ks.reverse = b := by
  have hround (x : Byte) (k : Nat) :
      feistelRound c (swapHalves (swapHalves (feistelRound c (swapHalves x) (key k)))) (key k) = swapHalves x := by
    rw [swapHalves_swapHalves, feistelRound_feistelRound]
  exact (foldl_reverse_foldl hround ks (swapHalves b)).trans (swapHalves_swapHalves b)

theorem feistelCipher_reverse {c : Configuration} (hcfg : c.wellFormed = true) (sk : Vector Word 8) (ks : List Nat)
    (b : Byte) : feistelCipher c sk ks.reverse (feistelCipher c sk ks b) = b := by
  have hip := Configuration.ip_perm hcfg
  rw [feistelCipher, feistelCipher, fp_eq_inversePositions hcfg, permute_permute_inversePositions hip,
    feistelRounds_reverse, permute_inversePositions_permute hip]

/-! #### SPN16: the inverse layers, met by the same subkeys -/

theorem spnInverseLayer_spnLayer {c : Configuration} (hcfg : c.wellFormed = true) (b : Word) :
    spnInverseLayer c (spnLayer c b) = b := by
  have hperm := Configuration.nperm_perm hcfg
  rw [spnInverseLayer, spnLayer, ← shuffleNibbles_subNibbles hperm,
    subNibbles_subNibbles (sub4_inverseSbox_sub4_sbox hcfg), shuffleNibbles_inversePositions_shuffleNibbles hperm]

theorem spnLayer_spnInverseLayer {c : Configuration} (hcfg : c.wellFormed = true) (b : Word) :
    spnLayer c (spnInverseLayer c b) = b := by
  have hperm := Configuration.nperm_perm hcfg
  rw [spnLayer, spnInverseLayer, ← shuffleNibbles_subNibbles (inversePositions_perm hperm),
    subNibbles_subNibbles (sub4_sbox_sub4_inverseSbox hcfg), shuffleNibbles_shuffleNibbles_inversePositions hperm]

section SpnRounds

variable {layer inverse : Word → Word} (sk : Vector Word 8) (b : Word)

theorem xor_xor_self (x k : Word) : x ^^^ k ^^^ k = x := by rw [BitVec.xor_assoc, BitVec.xor_self, BitVec.xor_zero]

/-- On the way down, the block before round r is the one `ENCRYPT` had after its addition of the subkey r. -/
theorem spnRounds_downTo_undoes (hundoes : ∀ x, inverse (layer x) = x) {n r : Nat} (hr : r ≤ n) :
    spnRounds inverse sk (spnRounds layer sk b (List.range n) ^^^ slot sk n) (downTo n (r + 1)) =
      spnRounds layer sk b (List.range r) ^^^ slot sk r := by
  induction hr using Nat.decreasingInduction with
  | self => rw [downTo_succ_self]; rfl
  | of_succ r hr ih =>
    rw [downTo_eq_concat hr, spnRounds_concat, ih, xor_xor_self, List.range_succ, spnRounds_concat, hundoes]

/-- On the way up, the block before round r is the one `DECRYPT` had after its addition of the subkey r. -/
theorem spnRounds_range_undoes (hundoes : ∀ x, layer (inverse x) = x) {n r : Nat} (hr : r ≤ n) :
    spnRounds layer sk (spnRounds inverse sk b (downTo n 1) ^^^ slot sk 0) (List.range r) =
      spnRounds inverse sk b (downTo n (r + 1)) ^^^ slot sk r := by
  induction r with
  | zero => rfl
  | succ r ih =>
    rw [List.range_succ, spnRounds_concat, ih (by omega), xor_xor_self, downTo_eq_concat hr, spnRounds_concat, hundoes]

end SpnRounds

/-! #### The composite commands -/

section RoundTrip

variable {c : Configuration} {var : Variant} {din : Word}

theorem decryptBlock_encryptBlock (hcfg : c.wellFormed = true) (sk : Vector Word 8)
    (hdin : var = .feistel8 → highByte din = 0) :
    decryptBlock c var sk (encryptBlock c var sk din) = din := by
  cases var with
  | feistel8 => rw [decryptBlock, encryptBlock, lowByte_zext16, downTo_one, feistelCipher_reverse hcfg,
      zext16_lowByte (hdin rfl)]
  | spn16 =>
    rw [decryptBlock, encryptBlock,
      spnRounds_downTo_undoes sk din (spnInverseLayer_spnLayer hcfg) (Nat.zero_le _), xor_xor_self]
    rfl

theorem encryptBlock_decryptBlock (hcfg : c.wellFormed = true) (sk : Vector Word 8)
    (hdin : var = .feistel8 → highByte din = 0) :
    encryptBlock c var sk (decryptBlock c var sk din) = din := by
  cases var with
  | feistel8 =>
    have hcipher := feistelCipher_reverse hcfg sk (downTo c.nrF 1) (lowByte din)
    rw [downTo_one, List.reverse_reverse] at hcipher
    rw [encryptBlock, decryptBlock, lowByte_zext16, downTo_one, hcipher, zext16_lowByte (hdin rfl)]
  | spn16 =>
    rw [encryptBlock, decryptBlock, spnRounds_range_undoes sk din (spnLayer_spnInverseLayer hcfg) le_rfl, xor_xor_self,
      downTo_succ_self]
    rfl

theorem highByte_encryptBlock (hvar : var = .feistel8) (c : Configuration) (sk : Vector Word 8) (din : Word) :
    highByte (encryptBlock c var sk din) = 0 := by
  subst hvar
  exact highByte_zext16 _

theorem highByte_decryptBlock (hvar : var = .feistel8) (c : Configuration) (sk : Vector Word 8) (din : Word) :
    highByte (decryptBlock c var sk din) = 0 := by
  subst hvar
  exact highByte_zext16 _

end RoundTrip

/-- Settles O31: the second command meets the first one's configuration, variant and subkeys, and a block that fits. -/
theorem decryptAndEncryptUndoEachOther : Obligations.DecryptAndEncryptUndoEachOther := by
  intro s hcfg hskv hdin
  simp only [List.forall_mem_cons, List.not_mem_nil, false_implies, implies_true, and_true]
  refine ⟨⟨_, exec_encrypt hcfg hskv hdin, rfl, fun s' hcfg' hvar hsk hskv' hdin' => ?encrypted⟩,
    ⟨_, exec_decrypt hcfg hskv hdin, rfl, fun s' hcfg' hvar hsk hskv' hdin' => ?decrypted⟩⟩
  all_goals have hwf : s'.cfg.wellFormed = true := by rw [hcfg']; exact hcfg
  case encrypted =>
    have hfits : dinFits s' := fun h => by rw [hdin']; exact highByte_encryptBlock (hvar ▸ h) ..
    refine ⟨_, exec_decrypt hwf hskv' hfits, ?_⟩
    rw [hcfg', hvar, hsk, hdin']
    exact decryptBlock_encryptBlock hcfg s.sk hdin
  case decrypted =>
    have hfits : dinFits s' := fun h => by rw [hdin']; exact highByte_decryptBlock (hvar ▸ h) ..
    refine ⟨_, exec_encrypt hwf hskv' hfits, ?_⟩
    rw [hcfg', hvar, hsk, hdin']
    exact encryptBlock_decryptBlock hcfg s.sk hdin

/-- Settles O32: `DECRYPT`'s block of the common ciphertext would be both plaintexts. -/
theorem distinctPlaintextsGiveDistinctCiphertexts : Obligations.DistinctPlaintextsGiveDistinctCiphertexts := by
  intro s t u p q hcfg hskv hp hq hne ht hu hdout
  obtain rfl := Host.Outcome.next.inj ((exec_encrypt (s := s.writeDin p) hcfg hskv hp).symm.trans ht)
  obtain rfl := Host.Outcome.next.inj ((exec_encrypt (s := s.writeDin q) hcfg hskv hq).symm.trans hu)
  have hblocks : encryptBlock s.cfg s.var s.sk p = encryptBlock s.cfg s.var s.sk q := hdout
  refine hne ?_
  calc p
    _ = decryptBlock s.cfg s.var s.sk (encryptBlock s.cfg s.var s.sk p) :=
      (decryptBlock_encryptBlock hcfg s.sk hp).symm
    _ = decryptBlock s.cfg s.var s.sk (encryptBlock s.cfg s.var s.sk q) := by rw [hblocks]
    _ = q := decryptBlock_encryptBlock hcfg s.sk hq

end Sys2Proof.Machine

/-! ### The stages one at a time (spec/44_pipeline.md R201)

A command issued and run to its end is its effect, wrapped in what the accepted write and the completion leave
(`State.ranCommand`); stages do not see that wrapping, so a host that issues them one by one gets all their
effects in it. -/

namespace Sys2Proof.Machine

/-- What an accepted write of the command word `v` and the completion leave behind, besides the effect. -/
def State.ranCommand (v : Word) (s : State) : State := (s.acceptCmd v).complete

/-- The host's write of each command's word and the sequencer's turn after it. -/
def issueInputs (stages : List Instr) : List Input :=
  stages.flatMap fun i => [.write 0 (encode i), .sequencer]

section OneByOne

variable {s : State} {i : Instr}

theorem stageEffect_acceptCmd_complete (i : Instr) (v : Word) (s : State) :
    (stageEffect i (s.acceptCmd v)).complete = (stageEffect i s).ranCommand v := by cases i <;> rfl

theorem stageEffect_ranCommand (i : Instr) (v : Word) (s : State) :
    stageEffect i (s.ranCommand v) = (stageEffect i s).ranCommand v := by cases i <;> rfl

theorem stageEffect_setInputs (i : Instr) (es : List Input) (s : State) :
    stageEffect i (s.setInputs es) = (stageEffect i s).setInputs es := by cases i <;> rfl

theorem runStages_ranCommand (stages : List Instr) (v : Word) (s : State) :
    runStages stages (s.ranCommand v) = (runStages stages s).ranCommand v := by
  induction stages generalizing s with
  | nil => rfl
  | cons i rest ih =>
    calc runStages rest (stageEffect i (s.ranCommand v))
      _ = runStages rest ((stageEffect i s).ranCommand v) := by rw [stageEffect_ranCommand]
      _ = (runStages rest (stageEffect i s)).ranCommand v := ih _

/-- An index in its variant's range fits the `K` field (spec/30_encoding.md R72). -/
theorem wellFormed_of_check_none (hcfg : s.cfg.wellFormed = true) (h : check i s = none) : i.wellFormed = true := by
  have hnrF := Configuration.nrF_le_seven hcfg
  have hnrS := Configuration.nrS_le_seven hcfg
  obtain ⟨-, -, hk, -⟩ := check_none h
  cases i with
  | fk k | ark k =>
    simp only [kOutOfRange, Bool.not_eq_false', decide_eq_true_eq] at hk
    exact decide_eq_true (by omega)
  | _ => rfl

/-- The write of a command's word on an idle core and the sequencer's turn execute the command. -/
theorem run_issue {t : State} (hcfg : s.cfg.wellFormed = true) (hrst : s.rst = false) (hbusy : s.status.busy = false)
    (hwf : i.wellFormed = true) {es : List Input} (hexec : exec i ((s.setInputs es).acceptCmd (encode i)) = .next t)
    (n : Nat) :
    Host.Core.run core (n + 2) (s.setInputs (.write 0 (encode i) :: .sequencer :: es)) = Host.Core.run core n t := by
  have hwrite : step (s.setInputs (.write 0 (encode i) :: .sequencer :: es)) =
      .next ((s.setInputs (.sequencer :: es)).acceptCmd (encode i)) :=
    step_cmd_write (s := s.setInputs (.write 0 (encode i) :: .sequencer :: es)) hcfg hrst hbusy rfl
  have hturn : step ((s.setInputs (.sequencer :: es)).acceptCmd (encode i)) = .next t :=
    (step_sequencer_run (s := (s.setInputs (.sequencer :: es)).acceptCmd (encode i)) hcfg hrst rfl
      (decode_encode hwf) rfl).trans hexec
  exact (run_succ hwrite (n + 1)).trans (run_succ hturn n)

/-- A command that passes its check and, issued alone, has the effect it has as a stage. -/
def State.PassesStage (s : State) (i : Instr) : Prop := check i s = none ∧ effectOf i = stageEffect i

/-- Two turns issue a stage: its effect, as the command leaves it. -/
theorem run_issue_stage (hcfg : s.cfg.wellFormed = true) (hrst : s.rst = false) (hbusy : s.status.busy = false)
    (hpass : s.PassesStage i) (es : List Input) (n : Nat) :
    Host.Core.run core (n + 2) (s.setInputs (.write 0 (encode i) :: .sequencer :: es)) =
      Host.Core.run core n (((stageEffect i s).ranCommand (encode i)).setInputs es) := by
  obtain ⟨hcheck, heffect⟩ := hpass
  refine run_issue hcfg hrst hbusy (wellFormed_of_check_none hcfg hcheck) ?_ n
  rw [exec_of_check_none (s := (s.setInputs es).acceptCmd (encode i)) hcheck, heffect, stageEffect_acceptCmd_complete,
    stageEffect_setInputs]
  rfl

/-- Stages issued one by one on an idle core have their effects one after the other. -/
theorem exists_run_issueInputs (hcfg : s.cfg.wellFormed = true) (hrst : s.rst = false) (hbusy : s.status.busy = false)
    (rest : List Instr) (hpass : ∀ j ∈ i :: rest, s.PassesStage j) :
    ∃ v, Host.Core.run core (issueInputs (i :: rest)).length (s.setInputs (issueInputs (i :: rest))) =
      .next (((runStages (i :: rest) s).ranCommand v).setInputs []) := by
  induction rest generalizing i s with
  | nil => exact ⟨encode i, run_issue_stage hcfg hrst hbusy (hpass i (by simp)) [] 0⟩
  | cons j rest ih =>
    obtain ⟨hi, hrest⟩ := List.forall_mem_cons.mp hpass
    have hissue := run_issue_stage hcfg hrst hbusy hi (issueInputs (j :: rest)) (issueInputs (j :: rest)).length
    obtain ⟨w, d, hstage⟩ := stageEffect_frame i s
    obtain ⟨v, hrun⟩ := ih (s := ((s.setW w).setDout d).ranCommand (encode i)) hcfg hrst rfl hrest
    refine ⟨v, hissue.trans ?_⟩
    rw [hstage, hrun, runStages_ranCommand, ← hstage]
    rfl

/-! #### Every stage of a composite command passes its check -/

theorem passesStage_of_mem_feistelStages (hvar : s.var = .feistel8) (hskv : s.status.skv = true) (hdin : dinFits s)
    {ks : List Nat} {last : Nat} (hks : ∀ k ∈ ks ++ [last], 1 ≤ k ∧ k ≤ s.cfg.nrF) :
    ∀ i ∈ feistelStages ks last, s.PassesStage i := by
  have hfk (k : Nat) (hk : k ∈ ks ++ [last]) : s.PassesStage (.fk k) :=
    ⟨check_eq_none_of_feistelOnly rfl hvar (by simp [kOutOfRange, hks k hk]) fun _ => hskv, rfl⟩
  have hplain (i : Instr) (hi : i = .ip ∨ i = .fp ∨ i = .swap) : s.PassesStage i := by
    obtain rfl | rfl | rfl := hi <;> exact ⟨check_eq_none_of_feistelOnly rfl hvar rfl nofun, rfl⟩
  intro i hi
  simp only [feistelStages, List.mem_append, List.mem_flatMap, List.mem_cons, List.not_mem_nil, or_false] at hi
  obtain ((rfl | rfl) | ⟨k, hk, rfl | rfl⟩ | rfl) | rfl | rfl := hi
  · exact ⟨check_loadw hdin, rfl⟩
  · exact hplain _ (by simp)
  · exact hfk k (by simp [hk])
  · exact hplain _ (by simp)
  · exact hfk last (by simp)
  · exact hplain _ (by simp)
  · exact ⟨check_storew s, rfl⟩

theorem passesStage_of_mem_spnStages (hvar : s.var = .spn16) (hskv : s.status.skv = true) {sub shuffle : Instr}
    (hsub : s.PassesStage sub) (hshuffle : s.PassesStage shuffle) {ks : List Nat} {last : Nat}
    (hks : ∀ k ∈ ks ++ [last], k ≤ s.cfg.nrS) : ∀ i ∈ spnStages sub shuffle ks last, s.PassesStage i := by
  have hark (k : Nat) (hk : k ∈ ks ++ [last]) : s.PassesStage (.ark k) :=
    ⟨check_eq_none_of_spnOnly rfl hvar (by simp [kOutOfRange, hks k hk]) fun _ => hskv, rfl⟩
  intro i hi
  simp only [spnStages, List.mem_append, List.mem_flatMap, List.mem_cons, List.not_mem_nil, or_false] at hi
  obtain (rfl | ⟨k, hk, rfl | rfl | rfl⟩) | rfl | rfl := hi
  · exact ⟨check_loadw (dinFits_of_spn hvar), rfl⟩
  · exact hark k (by simp [hk])
  · exact hsub
  · exact hshuffle
  · exact hark last (by simp)
  · exact ⟨check_storew s, rfl⟩

theorem passesStage_layer (hvar : s.var = .spn16) (hi : i = .nsub ∨ i = .insub ∨ i = .shuf ∨ i = .ishuf) :
    s.PassesStage i := by
  obtain rfl | rfl | rfl | rfl := hi <;> exact ⟨check_eq_none_of_spnOnly rfl hvar rfl nofun, rfl⟩

theorem passesStage_of_mem_encryptStages (hcfg : s.cfg.wellFormed = true) (hskv : s.status.skv = true)
    (hdin : dinFits s) : ∀ i ∈ encryptStages s.cfg s.var, s.PassesStage i := by
  cases hvar : s.var with
  | feistel8 =>
    obtain ⟨n, hn⟩ := Nat.exists_eq_add_of_le' (Configuration.one_le_nrF hcfg)
    rw [encryptStages, hn, feistelEncryptStages_succ]
    refine passesStage_of_mem_feistelStages hvar hskv hdin fun k hk => ?_
    rw [List.mem_append, List.mem_range'_1, List.mem_singleton] at hk
    omega
  | spn16 =>
    rw [encryptStages, spnEncryptStages_eq]
    refine passesStage_of_mem_spnStages hvar hskv (passesStage_layer hvar (by simp)) (passesStage_layer hvar (by simp))
      fun k hk => ?_
    rw [List.mem_append, List.mem_range, List.mem_singleton] at hk
    omega

theorem passesStage_of_mem_decryptStages (hcfg : s.cfg.wellFormed = true) (hskv : s.status.skv = true)
    (hdin : dinFits s) : ∀ i ∈ decryptStages s.cfg s.var, s.PassesStage i := by
  cases hvar : s.var with
  | feistel8 =>
    have hn := Configuration.one_le_nrF hcfg
    rw [decryptStages, feistelDecryptStages_eq hn]
    refine passesStage_of_mem_feistelStages hvar hskv hdin fun k hk => ?_
    rw [List.mem_append, mem_downTo, List.mem_singleton] at hk
    omega
  | spn16 =>
    rw [decryptStages, spnDecryptStages_eq]
    refine passesStage_of_mem_spnStages hvar hskv (passesStage_layer hvar (by simp)) (passesStage_layer hvar (by simp))
      fun k hk => ?_
    rw [List.mem_append, mem_downTo, List.mem_singleton] at hk
    omega

/-- Stages whose effects leave the block `v` in `W` and `DOUT`, issued one by one, and the composite command that ends
with `v` leave the same registers. -/
theorem oneByOne_eq_composite {stages : List Instr} {v : Word} (hcfg : s.cfg.wellFormed = true) (hrst : s.rst = false)
    (hbusy : s.status.busy = false) (hloadw : ∃ rest, stages = .loadw :: rest)
    (hpass : ∀ j ∈ stages, s.PassesStage j) (hstages : runStages stages s = (s.setW v).setDout v)
    (hwf : i.wellFormed = true)
    (hexec : exec i ((s.setInputs []).acceptCmd (encode i)) =
      .next (((s.setInputs []).acceptCmd (encode i)).endComposite v)) :
    ∃ t u, Host.Core.run core (issueInputs stages).length (s.setInputs (issueInputs stages)) = .next t ∧
      Host.Core.run core 2 (s.setInputs (issueInputs [i])) = .next u ∧
      t.w = u.w ∧ t.dout = u.dout ∧ t.sk = u.sk ∧ t.status = u.status := by
  obtain ⟨rest, rfl⟩ := hloadw
  obtain ⟨word, hrun⟩ := exists_run_issueInputs hcfg hrst hbusy rest hpass
  rw [hstages] at hrun
  exact ⟨_, _, hrun, run_issue hcfg hrst hbusy hwf hexec 0, rfl, rfl, rfl, rfl⟩

end OneByOne

/-- Settles O33: the stages' effects and the composite command leave the same block. -/
theorem stagesOneByOneEqualTheCompositeCommand : Obligations.StagesOneByOneEqualTheCompositeCommand := by
  intro s hcfg hrst _ hbusy hskv hdin
  simp only [List.forall_mem_cons, List.not_mem_nil, false_implies, implies_true, and_true]
  have hloadw (var : Variant) : (∃ rest, encryptStages s.cfg var = .loadw :: rest) ∧
      ∃ rest, decryptStages s.cfg var = .loadw :: rest := by
    cases var <;> exact ⟨⟨_, rfl⟩, ⟨_, rfl⟩⟩
  obtain ⟨hencrypt, hdecrypt⟩ := hloadw s.var
  exact ⟨oneByOne_eq_composite hcfg hrst hbusy hencrypt (passesStage_of_mem_encryptStages hcfg hskv hdin)
      (runStages_encryptStages hcfg) rfl
      (exec_encrypt (s := (s.setInputs []).acceptCmd (encode .encrypt)) hcfg hskv hdin),
    oneByOne_eq_composite hcfg hrst hbusy hdecrypt (passesStage_of_mem_decryptStages hcfg hskv hdin)
      (runStages_decryptStages hcfg) rfl
      (exec_decrypt (s := (s.setInputs []).acceptCmd (encode .decrypt)) hcfg hskv hdin)⟩

end Sys2Proof.Machine

/-! ### What a step answers (spec/60_exceptions.md R221, R226, R227, R231)

A well-formed configuration makes a step one turn, every turn answers a next state, and an ill-formed configuration is
refused: no step faults. -/

namespace Sys2Proof.Machine

section StepAnswers

variable {s : State}

theorem step_of_not_wellFormed (h : s.cfg.wellFormed = false) : step s = .refused .illFormedConfiguration := by
  simp [step, h]

/-- Every turn at the ports answers a next state. -/
theorem takeInput_answers_next (e : Input) (s : State) : ∃ t, takeInput e s = .next t := by
  cases e with
  | read i => exact ⟨_, rfl⟩
  | write i v => exact ⟨_, rfl⟩
  | rst level => exact ⟨_, rfl⟩
  | sequencer => exact sequencerTurn_answers_next s

theorem step_answers_next (h : s.cfg.wellFormed = true) : ∃ t, step s = .next t := by
  cases hin : s.inputs with
  | nil =>
    rw [step_of_sequencerMoves h (.inr ⟨hin, rfl⟩)]
    exact sequencerTurn_answers_next _
  | cons e es =>
    rw [step_of_inputs_cons h hin]
    exact takeInput_answers_next e _

end StepAnswers

/-- Settles O10: `step` looks at the configuration first. -/
theorem illFormedConfigurationIsRefused : Obligations.IllFormedConfigurationIsRefused :=
  fun _ => step_of_not_wellFormed

/-- Settles O11: a step answers a next state or, on an ill-formed configuration, the refusal. -/
theorem wellFormedCoreAlwaysAnswersNext : Obligations.WellFormedCoreAlwaysAnswersNext := by
  refine ⟨fun s => step_answers_next, fun s r hfault => ?_⟩
  cases hcfg : s.cfg.wellFormed
  · rw [step_of_not_wellFormed hcfg] at hfault
    cases hfault
  · obtain ⟨t, ht⟩ := step_answers_next hcfg
    rw [ht] at hfault
    cases hfault

end Sys2Proof.Machine

/-! ### The idle core (spec/60_exceptions.md R236, spec/20_memory.md R55) -/

namespace Sys2Proof.Machine

section IdleCore

variable {s t : State}

theorem runSequencer_of_idle (h : s.seq = .idle) : runSequencer s = .next s := by
  simp only [runSequencer, h]

/-- A host write keeps the phase, but for an accepted write of `CMD`, index 0. -/
theorem memWrite_seq_or_acceptCmd (i : RegIndex) (v : Word) (s : State) :
    (memWrite i v s).seq = s.seq ∨ (i = 0 ∧ s.status.busy = false ∧ memWrite i v s = s.acceptCmd v) := by
  by_cases hi : i = 0
  · subst hi
    rw [memWrite_cmd]
    cases s.status.busy
    · exact .inr ⟨rfl, rfl, rfl⟩
    · exact .inl rfl
  · have hcmd : regAt i ≠ .cmd := fun h => hi (by rw [← regIndex_regAt i, h]; rfl)
    left
    unfold memWrite
    cases hr : regAt i with
    | cmd => contradiction
    | mode | key | din => cases s.status.busy <;> rfl
    | _ => rfl

/-- A step leaves the core idle, or takes an accepted `CMD` write (R55). -/
theorem step_of_idle (hidle : s.seq = .idle) (h : step s = .next t) :
    t.seq = .idle ∨ ∃ v es, s.inputs = .write 0 v :: es ∧ s.rst = false ∧ s.status.busy = false ∧ t.cmd = v := by
  obtain ⟨i, es, -, rfl⟩ | ⟨i, v, es, hin, rfl⟩ | ⟨level, es, -, rfl⟩ | ⟨es, -, hturn⟩ := step_next h
  · left
    cases s.rst <;> exact hidle
  · cases hrst : s.rst
    · obtain hkeep | ⟨rfl, hbusy, hwrite⟩ := memWrite_seq_or_acceptCmd i v (s.setInputs es)
      · exact .inl (hkeep.trans hidle)
      · exact .inr ⟨v, es, hin, rfl, hbusy, congrArg State.cmd hwrite⟩
    · exact .inl hidle
  · left
    cases level
    · exact hidle
    · rfl
  · exact .inl (sequencerTurn_seq hturn)

end IdleCore

/-- Settles O9: the sequencer's turn leaves an idle core as it is, and of the other turns only an accepted `CMD` write
starts it. -/
theorem idleCoreHoldsUntilCmdWrite : Obligations.IdleCoreHoldsUntilCmdWrite := by
  refine ⟨fun s hcfg hidle hrst => ⟨fun hin => ?hold, fun es hin => ?turn⟩, fun s t hidle h hrun => ?leave⟩
  case hold => exact (step_of_inputs_nil hcfg hin hrst).trans (runSequencer_of_idle hidle)
  case turn =>
    exact (step_eq_runSequencer hcfg hrst (.inl hin)).trans (runSequencer_of_idle (s := s.setInputs es) hidle)
  case leave => exact (step_of_idle hidle h).resolve_left (by simp [hrun])

end Sys2Proof.Machine

/-! ### Errors in their order (spec/60_exceptions.md R221, R223)

`check_eq` says `check` as the numbered checks of R223, one proposition each; the lemmas before it list the commands that
each check concerns. -/

namespace Sys2Proof.Machine

theorem feistelOnly_iff (i : Instr) : i.feistelOnly = true ↔ i = .ip ∨ i = .fp ∨ (∃ k, i = .fk k) ∨ i = .swap := by
  cases i <;> simp [Instr.feistelOnly]

theorem spnOnly_iff (i : Instr) :
    i.spnOnly = true ↔ (∃ k, i = .ark k) ∨ i = .nsub ∨ i = .insub ∨ i = .shuf ∨ i = .ishuf := by
  cases i <;> simp [Instr.spnOnly]

theorem kOutOfRange_iff (c : Configuration) (i : Instr) :
    kOutOfRange c i = true ↔ (∃ k, i = .fk k ∧ ¬(1 ≤ k ∧ k ≤ c.nrF)) ∨ (∃ k, i = .ark k ∧ ¬(k ≤ c.nrS)) := by
  cases i <;> simp [kOutOfRange, -Bool.decide_and, -not_and]

theorem readsSubkeys_iff (i : Instr) :
    readsSubkeys i = true ↔ (∃ k, i = .fk k) ∨ (∃ k, i = .ark k) ∨ i = .encrypt ∨ i = .decrypt := by
  cases i <;> simp [readsSubkeys]

theorem readsKey_iff (i : Instr) : readsKey i = true ↔ i = .derive := by
  cases i <;> simp [readsKey]

theorem readsDin_iff (i : Instr) : readsDin i = true ↔ i = .loadw ∨ i = .encrypt ∨ i = .decrypt := by
  cases i <;> simp [readsDin]

/-- Check 2 of R223: the command belongs to the other variant. -/
abbrev State.ModeMismatch (s : State) (i : Instr) : Prop :=
  (i.feistelOnly = true ∧ s.var = .spn16) ∨ (i.spnOnly = true ∧ s.var = .feistel8)

/-- Check 4 of R223: the command needs subkeys and there are none. -/
abbrev State.LacksSubkeys (s : State) (i : Instr) : Prop := readsSubkeys i = true ∧ s.status.skv = false

/-- Check 5 of R223: the operand the command reads is too wide for FEISTEL8. -/
abbrev State.OperandTooWide (s : State) (i : Instr) : Prop :=
  s.var = .feistel8 ∧ ((readsKey i = true ∧ keyHigh6 s.key ≠ 0) ∨ (readsDin i = true ∧ highByte s.din ≠ 0))

/-- R223: the lowest-numbered check that fails is the one reported. -/
theorem check_eq (i : Instr) (s : State) :
    check i s =
      if s.ModeMismatch i then some .mode
      else if kOutOfRange s.cfg i = true then some .kidx
      else if s.LacksSubkeys i then some .nokey
      else if s.OperandTooWide i then some .len
      else none := by
  simp only [check, State.ModeMismatch, State.LacksSubkeys, State.OperandTooWide, and_or_left, ite_or, Bool.and_eq_true,
    beq_iff_eq, bne_iff_ne, Bool.not_eq_true', and_assoc]

/-- The effect of a command keeps `ERR`; only a failed check writes it (R221). -/
theorem effectOf_err (i : Instr) (s : State) : (effectOf i s).status.err = s.status.err := by
  obtain ⟨w, d, sk, skv, tm, dr, heq, -⟩ := effectOf_frame i s
  rw [heq]

/-- Settles O38: the statement's four conditions are the checks of `check_eq`, and the first that holds decides. -/
theorem checksAreReportedInOrder : Obligations.ChecksAreReportedInOrder := by
  intro s hseq
  refine ⟨fun e => runSequencer_of_decode_error hseq, fun i hi => ?_⟩
  intro badMode badIndex noKey badLength
  have hmode : badMode ↔ s.ModeMismatch i := by
    simp only [badMode, State.ModeMismatch, feistelOnly_iff, spnOnly_iff, and_comm]
  have hindex : badIndex ↔ kOutOfRange s.cfg i = true := (kOutOfRange_iff s.cfg i).symm
  have hnokey : noKey ↔ s.LacksSubkeys i := by simp only [noKey, State.LacksSubkeys, readsSubkeys_iff]
  have hlen : badLength ↔ s.OperandTooWide i := by
    simp only [badLength, State.OperandTooWide, readsKey_iff, readsDin_iff, keyHigh6, highByte]
  rw [hmode, hindex, hnokey, hlen, runSequencer_of_decode_ok hseq hi]
  refine ⟨fun h2 => ?mode, fun h2 h3 => ?kidx, fun h2 h3 h4 => ?nokey, fun h2 h3 h4 h5 => ?len, fun h2 h3 h4 h5 => ?none⟩
  case mode => exact exec_of_check_some (by rw [check_eq, if_pos h2])
  case kidx => exact exec_of_check_some (by rw [check_eq, if_neg h2, if_pos h3])
  case nokey => exact exec_of_check_some (by rw [check_eq, if_neg h2, if_neg h3, if_pos h4])
  case len => exact exec_of_check_some (by rw [check_eq, if_neg h2, if_neg h3, if_neg h4, if_pos h5])
  case none =>
    exact ⟨_, exec_of_check_none (by rw [check_eq, if_neg h2, if_neg h3, if_neg h4, if_neg h5]), effectOf_err i s⟩

/-- Settles O39: a command without an error keeps `ERR`. -/
theorem errorsChangeOnlyStatus : Obligations.ErrorsChangeOnlyStatus := by
  intro i s t h hnew
  obtain ⟨e, -, rfl⟩ | ⟨-, rfl⟩ := exec_next h
  · rfl
  · exact absurd (effectOf_err i s) hnew

end Sys2Proof.Machine

/-! ### Reset, and what shows of a running command (spec/70_reset_and_hazards.md R250, R251, R261) -/

namespace Sys2Proof.Machine

section ResetStep

variable {s : State} {es : List Input}

/-- The reset step leads to `State.reset`, but for what R250 leaves open and what is not a register. -/
theorem takeReset_eq_reset (s : State) :
    takeReset s = { State.reset with
      cfg := s.cfg, sk := (takeReset s).sk, temps := (takeReset s).temps, rst := s.rst, rdata := s.rdata,
      inputs := s.inputs, draws := (takeReset s).draws } := rfl

/-- Driving `rst` high is the reset step of a core whose `rst` is high. -/
theorem driveRst_true (s : State) : driveRst true s = takeReset { s with rst := true } := rfl

theorem driveRst_false (s : State) : driveRst false s = { s with rst := false } := rfl

theorem step_driveRst (hcfg : s.cfg.wellFormed = true) {level : Bool} (hin : s.inputs = .rst level :: es) :
    step s = .next (driveRst level (s.setInputs es)) := step_of_inputs_cons hcfg hin

/-- With `rst` going high, or high and the sequencer to move, a step is the reset step with `rst` = 1. -/
theorem step_eq_takeReset (hcfg : s.cfg.wellFormed = true)
    (h : s.inputs = .rst true :: es ∨ (s.rst = true ∧ (s.inputs = .sequencer :: es ∨ (s.inputs = [] ∧ es = [])))) :
    step s = .next (takeReset { s.setInputs es with rst := true }) := by
  obtain hin | ⟨hrst, hin⟩ := h
  · rw [step_driveRst hcfg hin, driveRst_true]
  · have hheld : { s.setInputs es with rst := true } = s.setInputs es := by rw [← hrst]; rfl
    rw [hheld, step_of_sequencerMoves hcfg hin]
    exact sequencerTurn_of_rst hrst

end ResetStep

/-- Settles O53: a turn at which the core resets is `takeReset`, and `takeReset_eq_reset` says where it leads. -/
theorem resetStepClearsEveryRegister : Obligations.ResetStepClearsEveryRegister := by
  intro s es hcfg
  refine ⟨fun h => ⟨_, step_eq_takeReset hcfg h, takeReset_eq_reset _⟩, fun hin => ?_⟩
  rw [step_driveRst hcfg hin, driveRst_false]
  rfl

/-- Settles O60: reads and dropped writes show nothing of the result, driving `rst` low changes `rst` alone, and a reset
or the sequencer's turn would leave the core idle. -/
theorem resultsAppearOnlyWithTheCommandsStep : Obligations.ResultsAppearOnlyWithTheCommandsStep := by
  intro s t _ hbusy h hrun
  obtain ⟨i, es, -, rfl⟩ | ⟨i, v, es, -, rfl⟩ | ⟨level, es, -, rfl⟩ | ⟨es, -, hturn⟩ := step_next h
  · cases s.rst <;> rfl
  · obtain ⟨ovr, hwrite⟩ := memWrite_busy (s := s.setInputs es) hbusy i v
    rw [hwrite]
    cases s.rst <;> rfl
  · cases level with
    | false => rfl
    | true => cases hrun
  · simp [sequencerTurn_seq hturn] at hrun

theorem statusWord_reset : statusWord Status.reset = 0x0000 := by decide

/-- Settles O54: the values of `State.reset`, with the word that `STATUS` reads from `statusWord_reset`. -/
theorem resetStateHasTheResetValues : Obligations.ResetStateHasTheResetValues :=
  ⟨rfl, rfl, rfl, rfl, rfl, rfl, statusWord_reset, rfl, rfl, rfl, rfl, rfl, rfl, rfl, rfl⟩

end Sys2Proof.Machine
